-- ==== Sys2Proof/Word.lean ====
section
/-! DEFINITION. The word types of the block: bytes of a frame, entries of the channel buffer, command
words (00_scope.md R12, 10_state.md R16, 30_encoding.md R45, R46). -/

namespace Sys2Proof

/-- A byte of a frame or of a command word carried as bytes (R12). -/
abbrev Byte := BitVec 8

/-- One entry of the channel buffer, held in `VAL_W = 16` bits, the larger of the two channel widths
(R45). For the twelve-bit variant the upper four bits are zero: `bufferWf` (R16; log 16). -/
abbrev Value := BitVec 16

/-- A command word, `CMD_W = 80` bits, bit 79 the most significant (R45, R46). -/
abbrev CmdWord := BitVec 80

/-- The sequence of bytes one WRITE transfers, offset 0 first (R12). -/
abbrev Frame := List Byte

end Sys2Proof
end

