-- ==== Sys2Proof/Syntax.lean ====
section
/-! DEFINITION. The five commands (30_encoding.md R47), one constructor for each row of
spec/opcode_table.json. Operands are natural numbers of any size, as the semantic rules are (R45, R48;
log 18); which of them a command word can carry is `Instr.wf`. -/

namespace Sys2Proof

inductive Instr
  /-- `SET_CHANNEL global_index, value` (R60). -/
  | setChannel (globalIndex value : Nat)
  /-- `SET_RGB device_index, r, g, b` (R61). -/
  | setRgb (deviceIndex r g b : Nat)
  /-- `GET_CHANNEL global_index` (R62). -/
  | getChannel (globalIndex : Nat)
  /-- `WRITE` (R87). -/
  | write
  /-- `DESTROY` (R92). -/
  | destroy
  deriving DecidableEq, Repr

end Sys2Proof
end

