-- ==== Sys2Proof/WellFormed.lean ====
section
/-! DEFINITION. Which commands a command word can carry: an index fits the 24-bit field `idx`, a value fits
a 16-bit field (30_encoding.md R45, R48: "A value above 65535 or an index above 2^24 - 1 cannot be
expressed on the port"). -/

namespace Sys2Proof

/-- An index operand fits `idx`, `IDX_W = 24` bits (R45, R48). -/
def fitsIdx (i : Nat) : Bool := decide (i < 2 ^ 24)

/-- A value operand fits its field, `VAL_W = 16` bits (R45, R48). -/
def fitsVal (v : Nat) : Bool := decide (v < 2 ^ 16)

/-- The command can be expressed on the command port (R48). -/
def Instr.wf : Instr → Bool
  | .setChannel i v => fitsIdx i && fitsVal v
  | .setRgb d r g b => fitsIdx d && fitsVal r && fitsVal g && fitsVal b
  | .getChannel i => fitsIdx i
  | .write => true
  | .destroy => true

end Sys2Proof
end

