-- ==== Sys2Proof/Decode.lean ====
section
/-! DEFINITION. The command word (30_encoding.md R46 to R51): the fields, the decoder, total on any word and
any bytes and rejecting by name, the encoder, the words as bytes, the written form. -/

namespace Sys2Proof

/-- Why a command word is not legal (R49), or why bytes hold no command word. -/
inductive Illegal
  /-- `op` is none of 0x01 to 0x05. -/
  | unknownOpcode (op : BitVec 8)
  /-- `idx` must be 0 and is not. -/
  | nonzeroIdx
  /-- `a` must be 0 and is not. -/
  | nonzeroA
  /-- `b` must be 0 and is not. -/
  | nonzeroB
  /-- `c` must be 0 and is not. -/
  | nonzeroC
  /-- Fewer than the ten bytes of a command word. -/
  | truncated
  deriving DecidableEq, Repr

/-! The fields of a command word (R46). -/

/-- `w[79:72]`, the opcode (R46). -/
def fieldOp (w : CmdWord) : BitVec 8 := w.extractLsb' 72 8

/-- `w[71:48]`, the index field (R46). -/
def fieldIdx (w : CmdWord) : BitVec 24 := w.extractLsb' 48 24

/-- `w[47:32]`, the first value operand (R46). -/
def fieldA (w : CmdWord) : BitVec 16 := w.extractLsb' 32 16

/-- `w[31:16]`, the second value operand (R46). -/
def fieldB (w : CmdWord) : BitVec 16 := w.extractLsb' 16 16

/-- `w[15:0]`, the third value operand (R46). -/
def fieldC (w : CmdWord) : BitVec 16 := w.extractLsb' 0 16

/-- The first of the fields given that must be 0 and is not (R49). -/
def mustBeZero (checks : List (Nat × Illegal)) (i : Instr) : Except Illegal Instr :=
  match checks with
  | [] => .ok i
  | (v, e) :: rest => if v = 0 then mustBeZero rest i else .error e

/-- The decoder: every 80-bit word is one of the five commands or illegal (R47, R49, R50, R101). Operands are
read unsigned and unscaled from their fields (R48). -/
def decode (w : CmdWord) : Except Illegal Instr :=
  let idx := (fieldIdx w).toNat
  let a := (fieldA w).toNat
  let b := (fieldB w).toNat
  let c := (fieldC w).toNat
  match (fieldOp w).toNat with
  | 1 => mustBeZero [(b, .nonzeroB), (c, .nonzeroC)] (.setChannel idx a)
  | 2 => .ok (.setRgb idx a b c)
  | 3 => mustBeZero [(a, .nonzeroA), (b, .nonzeroB), (c, .nonzeroC)] (.getChannel idx)
  | 4 => mustBeZero [(idx, .nonzeroIdx), (a, .nonzeroA), (b, .nonzeroB), (c, .nonzeroC)] .write
  | 5 => mustBeZero [(idx, .nonzeroIdx), (a, .nonzeroA), (b, .nonzeroB), (c, .nonzeroC)] .destroy
  | _ => .error (.unknownOpcode (fieldOp w))

/-- A command word from its five fields, `op` in the most significant place (R46). -/
def packFields (op : BitVec 8) (idx : BitVec 24) (a b c : BitVec 16) : CmdWord :=
  op ++ idx ++ a ++ b ++ c

/-- The opcode of each command (R47). -/
def Instr.opcode : Instr → BitVec 8
  | .setChannel .. => 0x01
  | .setRgb .. => 0x02
  | .getChannel .. => 0x03
  | .write => 0x04
  | .destroy => 0x05

/-- The encoder, from the table of R47. An operand that does not fit its field (`Instr.wf` is false) is cut
to the field; no statement is made about such a word. -/
def encode (i : Instr) : CmdWord :=
  match i with
  | .setChannel gi v => packFields 0x01 (BitVec.ofNat 24 gi) (BitVec.ofNat 16 v) 0 0
  | .setRgb d r g b =>
    packFields 0x02 (BitVec.ofNat 24 d) (BitVec.ofNat 16 r) (BitVec.ofNat 16 g) (BitVec.ofNat 16 b)
  | .getChannel gi => packFields 0x03 (BitVec.ofNat 24 gi) 0 0 0
  | .write => packFields 0x04 0 0 0 0
  | .destroy => packFields 0x05 0 0 0 0

/-- Ten bytes, the most significant first, as a command word (R46). -/
def wordOfBytes (bs : List Byte) : CmdWord :=
  BitVec.ofNat 80 (bs.foldl (fun acc b => acc * 256 + b.toNat) 0)

/-- A command word as its ten bytes, the most significant first (R46). -/
def bytesOfWord (w : CmdWord) : List Byte :=
  [w.extractLsb' 72 8, w.extractLsb' 64 8, w.extractLsb' 56 8, w.extractLsb' 48 8, w.extractLsb' 40 8,
   w.extractLsb' 32 8, w.extractLsb' 24 8, w.extractLsb' 16 8, w.extractLsb' 8 8, w.extractLsb' 0 8]

/-- The decoder on any bytes: the first ten are a command word, the rest is handed back (R46, R50). -/
def decodeBytes (bs : List Byte) : Except Illegal (Instr × List Byte) :=
  if bs.length < 10 then .error .truncated
  else
    match decode (wordOfBytes (bs.take 10)) with
    | .ok i => .ok (i, bs.drop 10)
    | .error e => .error e

/-- The word of the opcode table's numbering: one 80-bit word whose bit 0 is the least significant, the bits
above `nbits` zero (log 19). -/
def tableWord (nbits w : Nat) : CmdWord := BitVec.ofNat 80 (w % 2 ^ nbits)

/-- What the decoder reads from a row's word (host interface): the word is laid out as the spec lays out a
command carried as bytes, and those bytes are decoded (R46; log 19). -/
def decodeTableWord (nbits w : Nat) : Option Instr :=
  match decodeBytes (bytesOfWord (tableWord nbits w)) with
  | .ok (i, _) => some i
  | .error _ => none

/-- The written form: the mnemonic, then the operands in the source's order, in decimal (R51). -/
def Instr.written : Instr → String
  | .setChannel i v => "SET_CHANNEL " ++ toString i ++ ", " ++ toString v
  | .setRgb d r g b =>
    "SET_RGB " ++ toString d ++ ", " ++ toString r ++ ", " ++ toString g ++ ", " ++ toString b
  | .getChannel i => "GET_CHANNEL " ++ toString i
  | .write => "WRITE"
  | .destroy => "DESTROY"

end Sys2Proof
end

