-- ==== Sys2Proof/Config.lean ====
section
/-! DEFINITION. The configuration record: what is fixed when the block is constructed (00_scope.md R7, R8;
10_state.md R20; the table of open parameters at the end of 92_eei_decisions.md), and the one free value. -/

namespace Sys2Proof

/-- The closed set of variants (R2). -/
inductive Variant
  | twelveBit24Channel
  | sixteenBit12Channel
  deriving DecidableEq, Repr

/-- `RGB_OFF = (o_r, o_g, o_b)`, the channel offsets SET_RGB writes to (R8, R20, D13). -/
structure RgbOff where
  r : Nat
  g : Nat
  b : Nat
  deriving DecidableEq, Repr

/-- The configuration constants (R20). No command and no reset changes one of them. -/
structure Config where
  /-- `VARIANT` (R2, R7). -/
  variant : Variant
  /-- `N`, the number of chips of the chain; 0 is legal (R7, C3). -/
  n : Nat
  /-- `RGB_OFF` (R8). -/
  rgbOff : RgbOff
  /-- `HDR`, the control word at the head of every chip block; its length is `H` (R8, R72). -/
  hdr : List Byte
  /-- `LATCH_HOLD_CYCLES`, the hold time `T_LATCH` in periods of `clk` (R45, R84). -/
  holdCycles : Nat
  /-- `CAUSE_W`, the width of an error cause on the ports (R45, D7). -/
  causeW : Nat
  deriving DecidableEq, Repr

/-- The configuration of `State.reset`: the one of the spec's own scenario S1, twelve bits and one chip, with
the default offsets, no control word, the smallest hold time and the default cause width.
DESIGN CHOICE, unsafe for a statement about `State.reset` alone (log 2): the spec leaves VARIANT and N to
the construction, and every statement of this package is made for every configuration. -/
def Config.initial : Config where
  variant := .twelveBit24Channel
  n := 1
  rgbOff := { r := 0, g := 1, b := 2 }
  hdr := []
  holdCycles := 1
  causeW := 8

/-- FREE VALUE (log 8): the `k`-th time the spec leaves open whether the chips have copied their shift
registers (R39, U6, U13), the answer is `Config.commits k`. It has no body: no proof can use which it is. -/
opaque Config.commits : Nat → Bool

end Sys2Proof
end

