-- ==== Sys2Proof/Machine/Sizes.lean ====
section
/-! DEFINITION. The sizes that follow from the configuration (00_scope.md R8) and its constraints
(70_reset_and_hazards.md R114 (e), 93_implementation_defined.md U15). -/

namespace Sys2Proof

/-- `B`, bits per channel (R8). -/
def Config.bits (c : Config) : Nat :=
  match c.variant with
  | .twelveBit24Channel => 12
  | .sixteenBit12Channel => 16

/-- `C`, channels per chip (R8). -/
def Config.channels (c : Config) : Nat :=
  match c.variant with
  | .twelveBit24Channel => 24
  | .sixteenBit12Channel => 12

/-- `MASK = 2^B - 1` (R8, R10). -/
def Config.mask (c : Config) : Nat := 2 ^ c.bits - 1

/-- `L = N * C`, the length of the buffer (R8, R15). -/
def Config.total (c : Config) : Nat := c.n * c.channels

/-- `DATA_BYTES = B * C / 8` (R8). -/
def Config.dataBytes (c : Config) : Nat := c.bits * c.channels / 8

/-- `H`, the bytes of the control word (R8, R72). -/
def Config.hdrBytes (c : Config) : Nat := c.hdr.length

/-- `BLOCK_BYTES = H + DATA_BYTES` (R8). -/
def Config.blockBytes (c : Config) : Nat := c.hdrBytes + c.dataBytes

/-- `FRAME_BYTES = N * BLOCK_BYTES` (R8, R71). -/
def Config.frameBytes (c : Config) : Nat := c.n * c.blockBytes

/-- The constraints of the configuration that its meaning rests on: each offset below `C` (R20), no control
word in the twelve-bit variant (R20, R72), at least one hold period (R45). A configuration that breaks one
is given no meaning (U15; log 7). -/
def Config.ok (c : Config) : Bool :=
  decide (c.rgbOff.r < c.channels) && decide (c.rgbOff.g < c.channels) && decide (c.rgbOff.b < c.channels)
    && (match c.variant with
        | .twelveBit24Channel => c.hdr.isEmpty
        | .sixteenBit12Channel => true)
    && decide (1 ≤ c.holdCycles)

/-- The further constraints of the signal binding (R45, R114 (e)): every channel and device can be addressed
by a 24-bit index and a frame's length fits 32 bits. They limit what can be said on the ports only. -/
def Config.bindable (c : Config) : Bool :=
  decide (c.total ≤ 2 ^ 24) && decide (c.n ≤ 2 ^ 24) && decide (c.frameBytes < 2 ^ 32)

end Sys2Proof
end

