-- ==== Sys2Proof/Machine/State.lean ====
section
/-! DEFINITION. The state as plain data, and the state after reset (10_state.md R15 to R28; the chain's
environment model of 20_memory.md R36; INVENTORY.md lists every field). -/

namespace Sys2Proof.Machine

/-- `life`: ownership of the two capabilities (R21). -/
inductive Life
  | live
  | destroyed
  deriving DecidableEq, Repr

/-- A level of the latch line, as far as it is known (R22). -/
inductive Level
  | low
  | high
  | unknown
  deriving DecidableEq, Repr

/-- `phase`: how far a WRITE has got (R18, R94). -/
inductive Phase
  | idle
  | xfer
  | latHigh
  | hold
  | latLow
  deriving DecidableEq, Repr

/-- An answer of a collaborator: `Ok` or `Err(cause)`; the cause is opaque and passed on unchanged
(R25, D7; log 17). -/
inductive Answer
  | ok
  | err (cause : Nat)
  deriving DecidableEq, Repr

/-- The six ways a command ends (R95). -/
inductive Status
  | ok
  | indexOutOfRange
  | transferFailed
  | latchFailed
  | illegalCommand
  | destroyed
  deriving DecidableEq, Repr

/-- The observable events (R26). -/
inductive Event
  /-- `Cmd(word)`: the block accepts a command word. -/
  | cmd (w : CmdWord)
  /-- `Xfer(bytes)`: the block requests one bulk transfer. -/
  | xfer (f : Frame)
  /-- `XferAns`: the transfer collaborator answers. -/
  | xferAns (a : Answer)
  /-- `High`: the block requests `set_high`. -/
  | high
  /-- `HighAns`: the pin collaborator answers. -/
  | highAns (a : Answer)
  /-- `Held`: the hold time has passed since `HighAns(Ok)`. -/
  | held
  /-- `Low`: the block requests `set_low`. -/
  | low
  /-- `LowAns`: the pin collaborator answers. -/
  | lowAns (a : Answer)
  /-- `Own(0)`: the block gives up both capabilities. -/
  | own0
  /-- `Rsp(status, cause, data)`: the block ends the command (R52). -/
  | rsp (status : Status) (cause : Nat) (data : Value)
  deriving DecidableEq, Repr

/-- What a register of the chain holds: named by the frame that would put it there, or `unknown` (R36). -/
inductive ChainReg
  | unknown
  | holds (f : Frame)
  deriving DecidableEq, Repr

/-- The chain of chips and the latch line: environment, not block state (R36, R39, R112). -/
structure Chain where
  /-- `sr`, the chained shift registers (R36). -/
  sr : ChainReg
  /-- `out`, the active output registers, what the chips show (R36). -/
  out : ChainReg
  /-- The level of the latch line itself, which the block's reset does not change (R112, R114 (c)). -/
  line : Level
  /-- The model's own: the pulse in progress began from a low line, so that it commits (R39 (a), (c); log 8). -/
  clean : Bool
  deriving DecidableEq, Repr

/-- What the host and the other users of the bus do next (R51, R118, R120; log 3). DESIGN CHOICE, unsafe: there is
no input by which somebody else drives the latch line, also not after DESTROY, when the returned pin
capability may be used by others (R123); the model then keeps the line and what the chips show (log 25). -/
inductive HostInput
  /-- The host presents a command word; the collaborators' answers to it are written after it (R51). -/
  | command (w : CmdWord) (answers : List Answer)
  /-- The host resets the block (R111); `lineDriven` says whether the environment drives the latch line low
  before it releases the reset, its duty of R114 (c). -/
  | reset (lineDriven : Bool)
  /-- Between two WRITEs another user shifts bytes into this chain (R120). -/
  | otherBusUse
  deriving DecidableEq, Repr

/-- The machine. -/
structure State where
  /-- The configuration record: no step changes it (R20; log 1). -/
  cfg : Config
  /-- The channel buffer, `L` entries (R15, R16). -/
  val : List Value
  /-- Ownership of the capabilities (R21). -/
  life : Life
  /-- The level the block last drove the latch pin to, as far as it knows (R22). -/
  lat : Level
  /-- How far a WRITE has got (R18). -/
  phase : Phase
  /-- The latch hold timer: periods of `clk` still to wait in the phase `hold` (R84, R108; log 13). -/
  hold : Nat
  /-- The event trace since the last reset, oldest first (R26, R27). -/
  trace : List Event
  /-- The chain of chips and the latch line (R36). -/
  chain : Chain
  /-- The model's own: how many free values have been taken (log 8). -/
  draws : Nat
  /-- The model's own: the answers still to come for the command in progress (R25; log 4). -/
  answers : List Answer
  /-- The model's own: what the host will do, in order (R125; log 3). -/
  script : List HostInput
  deriving DecidableEq, Repr

/-- Faults: there is none. Every error of the spec is a response, after which the block goes on (R95, R97), and
"the block never halts by itself" (R125), so no step of this machine faults (log 15). Nobody raises one: safe. -/
inductive Fault
  deriving DecidableEq, Repr

/-- Refusals. -/
inductive Refusal
  /-- Raised by an arm of `exec` whose instruction has no meaning yet (none is left). Safe. -/
  | notModelled (mnemonic : String)
  /-- Raised by `step` and by every command when the configuration breaks its constraints (`Config.ok` is
  false): "the model gives such a configuration no meaning" (U15, D13, D29; log 7). Safe. -/
  | badConfiguration
  deriving DecidableEq, Repr

/-- The state after reset of a block constructed with the configuration `c` (R27, R111; the pseudo-command
`NEW` of R51), the chain at power-up (R36) and the latch line low, the launch premise of R114 (c). -/
def State.resetOf (c : Config) : State where
  cfg := c
  val := List.replicate c.total 0
  life := .live
  lat := .low
  phase := .idle
  hold := 0
  trace := []
  chain := { sr := .unknown, out := .unknown, line := .low, clean := false }
  draws := 0
  answers := []
  script := []

/-- The machine right after reset, for the configuration `Config.initial` (log 2). -/
def State.reset : State := State.resetOf Config.initial

end Sys2Proof.Machine
end

