-- ==== Sys2Proof/Machine/Flags.lean ====
section
/-! DEFINITION. The block has no status flag (10_state.md R19). What stands here in their place: the status
codes of a response (30_encoding.md R52) and the derived outputs own_bus, own_pin, busy, cmd_ready
(10_state.md R23; 30_encoding.md R55, R56). -/

namespace Sys2Proof.Machine

/-- The numeric status code, 4 bits (R52, R96). -/
def Status.code : Status → BitVec 4
  | .ok => 0
  | .indexOutOfRange => 1
  | .transferFailed => 2
  | .latchFailed => 3
  | .illegalCommand => 4
  | .destroyed => 5

/-- The status of a code; the codes 6 to 15 are never produced and name none (R52, U11). -/
def Status.ofCode (c : BitVec 4) : Option Status :=
  match c.toNat with
  | 0 => some .ok
  | 1 => some .indexOutOfRange
  | 2 => some .transferFailed
  | 3 => some .latchFailed
  | 4 => some .illegalCommand
  | 5 => some .destroyed
  | _ => none

/-- `own_bus`: the block holds the transfer capability (R21, R23). -/
def State.ownBus (s : State) : Bool := decide (s.life = .live)

/-- `own_pin`: the block holds the pin capability (R21, R23). -/
def State.ownPin (s : State) : Bool := decide (s.life = .live)

/-- `busy`: a command is being executed; between steps this is a WRITE that waits (R23). -/
def State.busy (s : State) : Bool := decide (s.phase ≠ .idle)

/-- `cmd_ready`: the block can accept a command word (R55, R56). -/
def State.cmdReady (s : State) : Bool := !s.busy

end Sys2Proof.Machine
end

