-- ==== Sys2Proof/Machine/Serializer.lean ====
section
/-! DEFINITION. The serializer: buffer to frame (41_serializer.md R65 to R72), in the two forms R66 gives, and
the frame map of 20_memory.md R34. Pure functions of the configuration and the buffer. -/

namespace Sys2Proof.Machine

/-- `bits_B(v)`: the `B` bits of a value, the most significant first (R12). -/
def bitsMsbFirst (bits : Nat) (v : Value) : List Bool :=
  (List.range bits).map fun j => v.getLsbD (bits - 1 - j)

/-- A byte from eight bits, the earlier bit the more significant (R12). -/
def packByte (b7 b6 b5 b4 b3 b2 b1 b0 : Bool) : Byte :=
  BitVec.ofBool b7 ++ BitVec.ofBool b6 ++ BitVec.ofBool b5 ++ BitVec.ofBool b4 ++
    BitVec.ofBool b3 ++ BitVec.ofBool b2 ++ BitVec.ofBool b1 ++ BitVec.ofBool b0

/-- `bytes_of(s)`: a bit string cut into bytes (R12). Bits that do not fill a byte do not occur: `B * C` is a
multiple of 8 in both variants (R9). -/
def bytesOfBits : List Bool → List Byte
  | b7 :: b6 :: b5 :: b4 :: b3 :: b2 :: b1 :: b0 :: rest =>
    packByte b7 b6 b5 b4 b3 b2 b1 b0 :: bytesOfBits rest
  | _ => []

/-- Entry `i` of a buffer (R13: `i < L` is established before every read). -/
def entry (val : List Value) (i : Nat) : Value := val.getD i 0

/-- The index of local channel `c` of device `d` (R31), over unbounded naturals (R64). -/
def globalIndex (cfg : Config) (d c : Nat) : Nat := d * cfg.channels + c

/-- The bit string of one chip's values, ascending local channel index (R66, R68). -/
def chipBits (cfg : Config) (val : List Value) (d : Nat) : List Bool :=
  (List.range cfg.channels).flatMap fun c => bitsMsbFirst cfg.bits (entry val (globalIndex cfg d c))

/-- `chipblock(d)`: the control word, then the channel data (R66, R72). -/
def chipBlock (cfg : Config) (val : List Value) (d : Nat) : Frame :=
  cfg.hdr ++ bytesOfBits (chipBits cfg val d)

/-- `serialize(val)`: the chip blocks in descending device index (R65, R66, R67). -/
def serialize (cfg : Config) (val : List Value) : Frame :=
  (List.range cfg.n).reverse.flatMap (chipBlock cfg val)

/-- Bit `p` of a frame in the order the bits go onto the serial line (R66). -/
def lineBit (f : Frame) (p : Nat) : Bool := (f.getD (p / 8) 0).getLsbD (7 - p % 8)

/-- `framebit(p)`: the serializer's rule bit by bit (R66, the second form). -/
def frameBit (cfg : Config) (val : List Value) (p : Nat) : Bool :=
  let k := p / (8 * cfg.blockBytes)
  let d := cfg.n - 1 - k
  let q := p % (8 * cfg.blockBytes)
  if q < 8 * cfg.hdrBytes then
    (cfg.hdr.getD (q / 8) 0).getLsbD (7 - q % 8)
  else
    let r := q - 8 * cfg.hdrBytes
    let c := r / cfg.bits
    let j := r % cfg.bits
    (entry val (globalIndex cfg d c)).getLsbD (cfg.bits - 1 - j)

/-- `start(d)`: the frame offset of the chip block of device `d` (R34, R67). -/
def blockStart (cfg : Config) (d : Nat) : Nat := (cfg.n - 1 - d) * cfg.blockBytes

/-- `data(d)`: the frame offset of the channel data of device `d` (R34). -/
def dataStart (cfg : Config) (d : Nat) : Nat := blockStart cfg d + cfg.hdrBytes

/-- `p0`: the first frame bit of entry `d*C + c` (R76). -/
def entryBit (cfg : Config) (d c : Nat) : Nat := 8 * dataStart cfg d + cfg.bits * c

end Sys2Proof.Machine
end

