-- ==== Sys2Proof/Machine/Operands.lean ====
section
/-! DEFINITION. The operand forms (40_buffer_ops.md R60 to R64): a value operand and its truncation, a global
index, a device index with a configured offset. -/

namespace Sys2Proof.Machine

/-- What a setter stores for the value operand `v`: `v & MASK` (R60, R63, C2, C6). -/
def truncate (cfg : Config) (v : Nat) : Value := BitVec.ofNat 16 (v &&& cfg.mask)

/-- A global index is out of range exactly when `i >= L`, an unsigned comparison of naturals (R30, R64). -/
def outOfRange (cfg : Config) (i : Nat) : Bool := decide (cfg.total ≤ i)

/-- `i_r`, `i_g`, `i_b` of SET_RGB (R61), computed without wrap (R64, D25). -/
def rgbIndices (cfg : Config) (d : Nat) : Nat × Nat × Nat :=
  (globalIndex cfg d cfg.rgbOff.r, globalIndex cfg d cfg.rgbOff.g, globalIndex cfg d cfg.rgbOff.b)

/-- What the buffer always is: `L` entries, each at most `MASK` (R15, R16). -/
def bufferWf (cfg : Config) (val : List Value) : Bool :=
  decide (val.length = cfg.total) && val.all fun v => decide (v.toNat ≤ cfg.mask)

/-- A read of entry `i` for a response: `zext_16(val[i])` (R62). -/
def State.readEntry (i : Nat) (s : State) : Value := entry s.val i

/-- `val[i] <- v & MASK` (R60, R61). -/
def State.writeEntry (i v : Nat) (s : State) : State :=
  { s with val := s.val.set i (truncate s.cfg v) }

end Sys2Proof.Machine
end

