-- ==== Sys2Proof/Machine/Ops.lean ====
section
/-! DEFINITION. The shared operations: events and responses, `raise` (60_exceptions.md R97), the prologue of every
command (40_buffer_ops.md R59), accepting a command word (30_encoding.md R56), reset (70_reset_and_hazards.md
R111, R112), the chain's draws (20_memory.md R39), and the host's script. -/

namespace Sys2Proof.Machine

/-- `emit e`: append an event to the trace (R13, R26). -/
def State.emit (e : Event) (s : State) : State := { s with trace := s.trace ++ [e] }

/-- `respond(status, cause, data)`: end the command with this response (R13, R52). -/
def State.respond (status : Status) (cause : Nat) (data : Value) (s : State) : State :=
  s.emit (.rsp status cause data)

/-- `raise E(info)`: taking an error. Nothing is saved or vectored: the command stops, `phase <- Idle`, the
response `(E, info, 0)` is given and the block is ready again (R97, R106). -/
def State.raise (status : Status) (cause : Nat) (s : State) : State :=
  { s with phase := .idle }.respond status cause 0

/-- The line is known to be low (R39 (a)). -/
def Level.isLow : Level → Bool
  | .low => true
  | .high => false
  | .unknown => false

/-- What the output registers hold after the `k`-th draw: the shift registers' frame when the chips have copied
it by now, else what they held (R39 (b), (c), U6, U13; log 8). Which of the two is the free value. -/
def drawnOut (k : Nat) (sr out : ChainReg) : ChainReg :=
  match Config.commits k with
  | true => sr
  | false => out

/-- A draw of the environment: the chips may have copied their shift registers to their outputs by now. -/
def State.drawCommit (s : State) : State :=
  { s with
    draws := s.draws + 1
    chain := { s.chain with out := drawnOut s.draws s.chain.sr s.chain.out } }

/-- The common shape of a command's meaning. A configuration outside its constraints is given no meaning (U15;
log 7). A block that is busy does not accept the command, and nothing happens (R56, D24; log 6). A destroyed
block ends it with `Destroyed` (R59, R102). Otherwise the command's own pseudocode runs. -/
def command (s : State) (body : State → State) : Host.Outcome State Fault Refusal :=
  if s.cfg.ok then
    if s.phase = .idle then
      match s.life with
      | .destroyed => .next (s.raise .destroyed 0)
      | .live => .next (body s)
    else .next s
  else .refused .badConfiguration

/-- Accepting a command word: event `Cmd(w)` (R56, R59); the answers that go with it are those the
collaborators will give to its requests (R25, R51). -/
def State.accept (w : CmdWord) (answers : List Answer) (rest : List HostInput) (s : State) : State :=
  { s with answers := answers, script := rest }.emit (.cmd w)

/-- What a reset leaves outside the block (R112): a transfer that was in progress is broken off and `sr` is
unknown; a pin request that had no answer leaves the chips' outputs a draw, and an unanswered `set_high` the
line unknown (log 11); with `set_high` answered and `set_low` not, the line is still high. Between commands
the chain is not touched (R27, R111). DESIGN CHOICE, unsafe: in `Idle` and in `Xfer` there is no draw, also where
the line was left high or unknown and the environment then drives it low (log 24). -/
def State.breakOff (s : State) : State :=
  match s.phase with
  | .idle => s
  | .xfer => { s with chain := { s.chain with sr := .unknown } }
  | .latHigh => { s with chain := { s.chain with line := .unknown } }.drawCommit
  | .hold => s.drawCommit
  | .latLow => s.drawCommit

/-- The state that a block constructed anew has, with the environment as it is: `val`, `life`, `lat`, `phase`,
the timer and the trace at their reset values; configuration, chain and the host's script kept (R27, R111,
R113). -/
def State.constructed (s : State) : State :=
  { State.resetOf s.cfg with chain := s.chain, draws := s.draws, script := s.script }

/-- Reset, in any phase (R54, R111, R112): the command in progress gives no response. When the environment does
its duty of R114 (c) the latch line is low afterwards. DESIGN CHOICE, unsafe: in `Idle` and in `Xfer` that makes no
draw, so the chips show what they showed, also where the line was high or unknown before (log 24). -/
def State.doReset (lineDriven : Bool) (s : State) : State :=
  let t := s.breakOff.constructed
  { t with chain := { t.chain with
      line := if lineDriven then .low else t.chain.line
      clean := false } }

/-- Another user shifts bytes into this chain between two WRITEs: the shift registers hold something else, the
outputs do not change (R120). -/
def State.busShared (s : State) : State := { s with chain := { s.chain with sr := .unknown } }

/-- The host presents the word `w` now: it is the next input, and the block is ready for it. The answers at
hand are the answers to it (the host interface's `withFetchWord`; log 3). -/
def State.present (w : CmdWord) (s : State) : State :=
  { s with phase := .idle, script := .command w s.answers :: s.script }

end Sys2Proof.Machine
end

