-- ==== Sys2Proof/Machine/Buffer.lean ====
section
/-! DEFINITION. The buffer commands SET_CHANNEL, SET_RGB, GET_CHANNEL (40_buffer_ops.md R60, R61, R62). -/

namespace Sys2Proof.Machine

/-- SET_CHANNEL after the prologue (R60). -/
def setChannelBody (i v : Nat) (s : State) : State :=
  if outOfRange s.cfg i then s.raise .indexOutOfRange 0
  else (s.writeEntry i v).respond .ok 0 0

/-- SET_RGB after the prologue: all three indices are checked before any write; red, green, blue (R61). -/
def setRgbBody (d r g b : Nat) (s : State) : State :=
  let (ir, ig, ib) := rgbIndices s.cfg d
  if outOfRange s.cfg ir || outOfRange s.cfg ig || outOfRange s.cfg ib then s.raise .indexOutOfRange 0
  else (((s.writeEntry ir r).writeEntry ig g).writeEntry ib b).respond .ok 0 0

/-- GET_CHANNEL after the prologue (R62). -/
def getChannelBody (i : Nat) (s : State) : State :=
  if outOfRange s.cfg i then s.raise .indexOutOfRange 0
  else s.respond .ok 0 (s.readEntry i)

/-- `SET_CHANNEL global_index, value` (R59, R60). -/
def execSetChannel (globalIndex value : Nat) (s : State) : Host.Outcome State Fault Refusal :=
  command s (setChannelBody globalIndex value)

/-- `SET_RGB device_index, r, g, b` (R59, R61). -/
def execSetRgb (deviceIndex r g b : Nat) (s : State) : Host.Outcome State Fault Refusal :=
  command s (setRgbBody deviceIndex r g b)

/-- `GET_CHANNEL global_index` (R59, R62). -/
def execGetChannel (globalIndex : Nat) (s : State) : Host.Outcome State Fault Refusal :=
  command s (getChannelBody globalIndex)

end Sys2Proof.Machine
end

