-- ==== Sys2Proof/Machine/Sequencer.lean ====
section
/-! DEFINITION. WRITE and DESTROY (42_write_latch_destroy.md R79 to R94): the transfer, the latch pulse
sequencer as the transition table of `phase`, with the chain's side of each transition (20_memory.md R38, R39). -/

namespace Sys2Proof.Machine

/-- `Idle -> Xfer`: serialize, and request the one bulk transfer of the whole frame (R80, R81, R94). While the
transfer runs the shift registers hold some of it: unknown (R38, R112; log 9). -/
def State.requestTransfer (s : State) : State :=
  { s with
    phase := .xfer
    chain := { s.chain with sr := .unknown } }.emit (.xfer (serialize s.cfg s.val))

/-- `Xfer`, answered `Ok`: the chain holds the frame (R38); `set_high` is requested (R84, R94). Whether the pulse
starts from a low line is settled here (R39: "When lat = Low at the High request"). -/
def State.transferDone (s : State) : State :=
  { s.emit (.xferAns .ok) with
    phase := .latHigh
    chain := { s.chain with
      sr := .holds (serialize s.cfg s.val)
      clean := s.lat.isLow && s.chain.line.isLow } }.emit .high

/-- `Xfer`, answered `Err(e)`: `TransferFailed(e)`, no pin request, `sr` unknown (R38, R82). -/
def State.transferFailed (e : Nat) (s : State) : State :=
  { s.emit (.xferAns (.err e)) with
    chain := { s.chain with sr := .unknown } }.raise .transferFailed e

/-- `LatHigh`, answered `Ok`: `lat <- High`, the hold timer starts; from here the outputs are a draw between the
old and the new frame (R39, R84, R94). -/
def State.raised (s : State) : State :=
  { s.emit (.highAns .ok) with
    lat := .high
    phase := .hold
    hold := s.cfg.holdCycles
    chain := { s.chain with line := .high } }.drawCommit

/-- `LatHigh`, answered `Err(e)`: `LatchFailed(e)`, `lat <- Unknown`, no `set_low` (R85, D17, R39 (b)). -/
def State.raiseFailed (e : Nat) (s : State) : State :=
  { s.emit (.highAns (.err e)) with
    lat := .unknown
    chain := { s.chain with line := .unknown } }.drawCommit.raise .latchFailed e

/-- `Hold`: one period of the hold timer; when it has run out, `Held`, and `set_low` is requested (R84, R94,
R108). -/
def State.holding (s : State) : State :=
  match s.hold with
  | k + 1 => { s with hold := k }
  | 0 => { s.emit .held with phase := .latLow }.emit .low

/-- `LatLow`, answered `Ok`: `lat <- Low`, response OK (R87). A pulse that began from a low line has committed:
`out = sr` (R39 (a)); otherwise the outputs stay a draw (R39 (c)). -/
def State.lowered (s : State) : State :=
  let t := { s.emit (.lowAns .ok) with
    lat := .low
    phase := .idle
    chain := { s.chain with line := .low } }
  match s.chain.clean with
  | true => { t with chain := { t.chain with out := t.chain.sr } }.respond .ok 0 0
  | false => t.drawCommit.respond .ok 0 0

/-- `LatLow`, answered `Err(e)`: `LatchFailed(e)`, `lat <- Unknown` (R85, R39 (b)). -/
def State.lowerFailed (e : Nat) (s : State) : State :=
  { s.emit (.lowAns (.err e)) with
    lat := .unknown
    chain := { s.chain with line := .unknown } }.drawCommit.raise .latchFailed e

/-- The next answer is taken off the list. -/
def State.takeAnswer (rest : List Answer) (s : State) : State := { s with answers := rest }

/-- One transition of the sequencer (R94). A phase that waits for an answer that is not there stays as it is
(R126). -/
def State.advance (s : State) : State :=
  match s.phase with
  | .idle => s
  | .hold => s.holding
  | .xfer =>
    match s.answers with
    | [] => s
    | .ok :: rest => (s.takeAnswer rest).transferDone
    | .err e :: rest => (s.takeAnswer rest).transferFailed e
  | .latHigh =>
    match s.answers with
    | [] => s
    | .ok :: rest => (s.takeAnswer rest).raised
    | .err e :: rest => (s.takeAnswer rest).raiseFailed e
  | .latLow =>
    match s.answers with
    | [] => s
    | .ok :: rest => (s.takeAnswer rest).lowered
    | .err e :: rest => (s.takeAnswer rest).lowerFailed e

/-- `n` transitions. -/
def State.advanceBy : Nat → State → State
  | 0, s => s
  | n + 1, s => State.advanceBy n s.advance

/-- The sequencer runs until the WRITE has ended or waits for an answer that is not there: at most four
transitions and the periods of the hold timer (R87, R94; log 5). -/
def State.settle (s : State) : State := State.advanceBy (s.hold + s.cfg.holdCycles + 4) s

/-- Time passes while a request is unanswered: nothing of the block changes (R126). While the line is high and
`set_low` is requested, the chips may copy at any time, so their outputs are drawn anew (R39, U13; log 12). -/
def State.wait (s : State) : State :=
  match s.phase with
  | .latLow => s.drawCommit
  | _ => s

/-- A busy block: a reset wins over everything (R112, D28); else the sequencer goes on with the answers at hand,
and with none it waits (R126). A command word presented now is not accepted and stays where it is (R56). -/
def State.resume (s : State) : State :=
  match s.script with
  | .reset lineDriven :: rest => { s with script := rest }.doReset lineDriven
  | _ =>
    match s.answers, s.phase with
    | [], .hold => s.settle
    | [], _ => s.wait
    | _ :: _, _ => s.settle

/-- WRITE after the prologue (R87). -/
def writeBody (s : State) : State := s.requestTransfer.settle

/-- DESTROY after the prologue: `life <- Destroyed`, `Own(0)`, OK; no request, the line and the buffer are left
as they are (R92). -/
def destroyBody (s : State) : State :=
  ({ s with life := .destroyed }.emit .own0).respond .ok 0 0

/-- `WRITE` (R59, R87). -/
def execWrite (s : State) : Host.Outcome State Fault Refusal := command s writeBody

/-- `DESTROY` (R59, R92). -/
def execDestroy (s : State) : Host.Outcome State Fault Refusal := command s destroyBody

end Sys2Proof.Machine
end

