-- ==== Sys2Proof/Machine/Dispatch.lean ====
section
/-! DEFINITION. One arm per command (40_buffer_ops.md R59, 30_encoding.md R47). -/

namespace Sys2Proof.Machine

def exec (i : Instr) (s : State) : Host.Outcome State Fault Refusal :=
  match i with
  | .setChannel gi v => Sys2Proof.Machine.execSetChannel gi v s
  | .setRgb d r g b => Sys2Proof.Machine.execSetRgb d r g b s
  | .getChannel gi => Sys2Proof.Machine.execGetChannel gi s
  | .write => Sys2Proof.Machine.execWrite s
  | .destroy => Sys2Proof.Machine.execDestroy s

end Sys2Proof.Machine
end

