-- ==== Sys2Proof/Machine/Step.lean ====
section
/-! DEFINITION. One step of the machine, and the placing of a word where the next step takes it. -/

namespace Sys2Proof.Machine

/-- One step (log 5). A refused configuration has no step (U15). A busy block goes on with its WRITE (R94). A
ready block takes the host's next input: a command word, which is accepted, decoded and executed (R56, R59), an
illegal one ending `IllegalCommand` (R101); a reset (R111); another user of the bus (R120). With no input left
nothing happens (R125). -/
def step (s : State) : Host.Outcome State Fault Refusal :=
  if s.cfg.ok then
    if s.phase = .idle then
      match s.script with
      | [] => .next s
      | .reset lineDriven :: rest => .next ({ s with script := rest }.doReset lineDriven)
      | .otherBusUse :: rest => .next ({ s with script := rest }.busShared)
      | .command w answers :: rest =>
        match decode w with
        | .ok i => exec i (s.accept w answers rest)
        | .error _ => .next ((s.accept w answers rest).raise .illegalCommand 0)
    else .next s.resume
  else .refused .badConfiguration

/-- `s` with the word `w` presented to the block, which is ready for it (log 3, log 19). -/
def State.withFetchWord (s : State) (nbits w : Nat) : State := s.present (tableWord nbits w)

end Sys2Proof.Machine
end

