-- ==== Sys2Proof/Machine/Ports.lean ====
section
/-! DEFINITION. The ports as views of the events (30_encoding.md R52, R55 to R58): which port activity each
event is, which answer a collaborator's port activity is, and the byte stream of one transfer under what the
collaborator does. There is no clock in the model (R54; log 14). -/

namespace Sys2Proof.Machine

/-- One activity of an output port, in the period the port's own valid signal is high (R55). -/
inductive PortSignal
  /-- `rsp_valid` with `rsp_status`, `rsp_cause`, `rsp_data` (R52, R56). -/
  | rsp (status : BitVec 4) (cause : Nat) (data : BitVec 16)
  /-- `xfer_start` with `xfer_len` (R57). -/
  | xferStart (len : BitVec 32)
  /-- `tx_valid` and `tx_ready` with `tx_data` and `tx_last`: a byte is taken (R57). -/
  | tx (data : Byte) (last : Bool)
  /-- `pin_req` with `pin_level` (R58). -/
  | pinReq (level : Bool)
  /-- `own_bus` and `own_pin` fall (R23, R58). -/
  | ownFall
  deriving DecidableEq, Repr

/-- The bytes of one transfer in ascending offset, `tx_last` with the last one; none for the empty frame (R57). -/
def txBytes : Frame → List PortSignal
  | [] => []
  | [b] => [.tx b true]
  | b :: c :: rest => .tx b false :: txBytes (c :: rest)

/-! One transfer on its port (R57). -/

/-- What the transfer collaborator does next while a transfer runs (R57). How it paces the bytes and when it
answers is its own draw (R25; log 14). -/
inductive TxInput
  /-- `tx_ready` low: the offered byte stays offered. -/
  | notReady
  /-- `tx_ready` high: the offered byte, if there is one, is taken. -/
  | ready
  /-- `xfer_done` high, with this answer. -/
  | done (a : Answer)
  deriving DecidableEq, Repr

/-- What a transfer of these bytes puts on the port, and the answer it ends with, if it has ended: the bytes in
ascending offset, each taken when `tx_ready` is high, `tx_last` with the last one. At the answer the block
stops offering bytes, whether or not all are taken (R57). -/
def transferPort : List TxInput → Frame → List PortSignal × Option Answer
  | [], _ => ([], none)
  | .notReady :: is, f => transferPort is f
  | .ready :: is, [] => transferPort is []
  | .ready :: is, b :: f => (.tx b f.isEmpty :: (transferPort is f).1, (transferPort is f).2)
  | .done a :: _, _ => ([], some a)

/-- The collaborator's duty: it answers `Ok` only after it has taken all the bytes; `Err` it may answer at any
time (R57). -/
def keepsTransfer : List TxInput → Frame → Bool
  | [], _ => true
  | .notReady :: is, f => keepsTransfer is f
  | .ready :: is, f => keepsTransfer is f.tail
  | .done .ok :: _, f => f.isEmpty
  | .done (.err _) :: _, _ => true

/-- The output activity an event stands for (R55 to R58). For a transfer it is its start; the bytes, which depend
on what the collaborator does, are those of `transferPort`. -/
def Event.signals : Event → List PortSignal
  | .xfer f => [.xferStart (BitVec.ofNat 32 f.length)]
  | .high => [.pinReq true]
  | .low => [.pinReq false]
  | .own0 => [.ownFall]
  | .rsp status cause data => [.rsp status.code cause data]
  | .cmd _ => []
  | .xferAns _ => []
  | .highAns _ => []
  | .held => []
  | .lowAns _ => []

/-- The output activity of a whole trace, given what the transfer collaborator does in each transfer, in order; in
a transfer for which nothing is given no byte is taken yet (R55 to R58). -/
def portTrace : List (List TxInput) → List Event → List PortSignal
  | _, [] => []
  | is :: iss, .xfer f :: es => Event.signals (.xfer f) ++ ((transferPort is f).1 ++ portTrace iss es)
  | iss, e :: es => e.signals ++ portTrace iss es

/-- The answer to the transfer request just made, if the trace goes on with one (R26). -/
def firstAnswer : List Event → Option Answer
  | .xferAns a :: _ => some a
  | _ => none

/-- What the collaborator does agrees with the trace: in every transfer it keeps its duty, and its port shows the
answer that the trace records (R57). -/
def portsAgree : List (List TxInput) → List Event → Bool
  | _, [] => true
  | is :: iss, .xfer f :: es =>
    keepsTransfer is f && decide ((transferPort is f).2 = firstAnswer es) && portsAgree iss es
  | [], .xfer _ :: es => decide (firstAnswer es = none) && portsAgree [] es
  | iss, _ :: es => portsAgree iss es

/-- The answer that `xfer_done` with `xfer_err`, `xfer_cause`, or `pin_ack` with `pin_err`, `pin_cause`, is
(R57, R58). -/
def Answer.ofPort (err : Bool) (cause : Nat) : Answer := if err then .err cause else .ok

end Sys2Proof.Machine
end

