-- ==== Sys2Proof/Safety.lean ====
section
/-! DEFINITION. The terms in which claims are made: a block that is ready, the invariant of the state, the
protocol of the event trace, a good run (70_reset_and_hazards.md R125), the launch premise (R114 (c)), the
fairness premise (R126). -/

namespace Sys2Proof.Machine

/-- The conditions under which a command's own pseudocode runs: the configuration is admitted (U15), no WRITE is
in progress (R56), the block is not destroyed (R59). -/
abbrev Ready (s : State) : Prop := s.cfg.ok = true ∧ s.phase = .idle ∧ s.life = .live

/-- The latch line is low when a pulse begins from here: `lat = Low`, and the line is what the block believes,
the launch premise of R114 (c). -/
abbrev LineLow (s : State) : Prop := s.lat = .low ∧ s.chain.line = .low

/-- The collaborators answer every request that a WRITE makes when they answer like this: the list reaches the
first `Err` or holds three answers (R126). -/
def answered : List Answer → Bool
  | .err _ :: _ => true
  | .ok :: .err _ :: _ => true
  | .ok :: .ok :: _ :: _ => true
  | _ => false

/-- The invariant of the state: it holds after reset and every step keeps it. -/
structure Inv (s : State) : Prop where
  /-- `L` entries of at most `B` bits (R15, R16). -/
  buffer : bufferWf s.cfg s.val = true
  /-- A WRITE in progress belongs to a block that is not destroyed (R92: no DESTROY comes inside a WRITE). -/
  busyLive : s.phase ≠ .idle → s.life = .live
  /-- The hold timer is idle outside the phase `Hold` (R108). -/
  timerIdle : s.phase ≠ .hold → s.hold = 0
  /-- The hold timer counts down from `LATCH_HOLD_CYCLES` (R84). -/
  timerBound : s.hold ≤ s.cfg.holdCycles
  /-- Between the answers to `set_high` and `set_low` the line is driven high (R22, R112). -/
  pulseHigh : s.phase = .hold ∨ s.phase = .latLow → s.lat = .high ∧ s.chain.line = .high
  /-- While a transfer runs, what the shift registers hold is not known (R112). -/
  sending : s.phase = .xfer → s.chain.sr = .unknown
  /-- The pin is requested only with the whole frame of the buffer in the chain (R38, R116). -/
  sent : s.phase = .latHigh ∨ s.phase = .hold ∨ s.phase = .latLow →
    s.chain.sr = .holds (serialize s.cfg s.val)

/-! The protocol of the trace, as an automaton that reads the events (R26, R59, R87, R88, R116). -/

/-- Where the command in progress has got to, as the trace shows it. -/
inductive Progress
  /-- No command is in progress. -/
  | ready
  /-- A word was accepted. -/
  | accepted
  /-- The transfer was requested. -/
  | sending
  /-- The transfer was answered `Ok`. -/
  | sent
  /-- `set_high` was requested. -/
  | raising
  /-- `set_high` was answered `Ok`. -/
  | high
  /-- The hold time has passed. -/
  | held
  /-- `set_low` was requested. -/
  | lowering
  /-- The command's own work is done and `OK` must follow. -/
  | done
  /-- A collaborator refused, and this error must follow. -/
  | failed (status : Status) (cause : Nat)
  deriving DecidableEq, Repr

/-- Whether a command that made no request may end with this response (R52, R96). -/
def plainEnd : Status → Nat → Bool
  | .ok, c => c == 0
  | .indexOutOfRange, c => c == 0
  | .illegalCommand, c => c == 0
  | .destroyed, c => c == 0
  | .transferFailed, _ => false
  | .latchFailed, _ => false

/-- The next event of a trace that keeps the protocol, or none. -/
def Progress.next (e : Event) : Progress → Option Progress
  | .ready =>
    match e with
    | .cmd _ => some .accepted
    | _ => none
  | .accepted =>
    match e with
    | .xfer _ => some .sending
    | .own0 => some .done
    | .rsp st c _ => if plainEnd st c then some .ready else none
    | _ => none
  | .sending =>
    match e with
    | .xferAns .ok => some .sent
    | .xferAns (.err c) => some (.failed .transferFailed c)
    | _ => none
  | .sent =>
    match e with
    | .high => some .raising
    | _ => none
  | .raising =>
    match e with
    | .highAns .ok => some .high
    | .highAns (.err c) => some (.failed .latchFailed c)
    | _ => none
  | .high =>
    match e with
    | .held => some .held
    | _ => none
  | .held =>
    match e with
    | .low => some .lowering
    | _ => none
  | .lowering =>
    match e with
    | .lowAns .ok => some .done
    | .lowAns (.err c) => some (.failed .latchFailed c)
    | _ => none
  | .done =>
    match e with
    | .rsp .ok c d => if c = 0 ∧ d = 0 then some .ready else none
    | _ => none
  | .failed st c =>
    match e with
    | .rsp st' c' d => if st' = st ∧ c' = c ∧ d = 0 then some .ready else none
    | _ => none

/-- The automaton on a whole trace. -/
def progress (t : List Event) : Option Progress :=
  t.foldl (fun p e => p.bind (Progress.next e)) (some .ready)

/-- The place in the protocol where each phase waits (R94). -/
def Progress.ofPhase : Phase → Progress
  | .idle => .ready
  | .xfer => .sending
  | .latHigh => .raising
  | .hold => .high
  | .latLow => .lowering

/-- The trace keeps the protocol and the phase agrees with it: every command ends with exactly one response, a
WRITE requests one transfer, no `set_high` stands without the transfer's `Ok` before it, no `set_low` without
the `Ok` of `set_high` and the hold (R52, R87, R88, R116). -/
abbrev TraceKeepsProtocol (s : State) : Prop := progress s.trace = some (Progress.ofPhase s.phase)

/-! Good runs (R125). -/

/-- A response that shows a programming error of the host: IndexOutOfRange, IllegalCommand or Destroyed (R98,
R101, R102, D30). -/
def Event.programmingError : Event → Bool
  | .rsp .indexOutOfRange _ _ => true
  | .rsp .illegalCommand _ _ => true
  | .rsp .destroyed _ _ => true
  | _ => false

/-- No response so far shows a programming error (R125). -/
def goodTrace (t : List Event) : Bool := t.all fun e => !e.programmingError

/-- `k` steps from `s` are good: the machine goes on, and no trace on the way shows a programming error. Each
state is looked at because a reset empties the trace (R27). -/
def goodRun : Nat → State → Bool
  | 0, s => goodTrace s.trace
  | k + 1, s =>
    goodTrace s.trace &&
      match step s with
      | .next t => goodRun k t
      | .fault _ => false
      | .refused _ => false

/-- The run has ended: the last command's response has been given (R125). -/
def State.finished (s : State) : Bool := decide (s.phase = .idle) && s.script.isEmpty

/-- Two states that differ at most in what the block does not look at: the level it believes the latch line to
have, the chain, and the free values taken (R22). -/
structure SameBlock (s t : State) : Prop where
  cfg : s.cfg = t.cfg
  val : s.val = t.val
  life : s.life = t.life
  phase : s.phase = t.phase
  hold : s.hold = t.hold
  trace : s.trace = t.trace
  answers : s.answers = t.answers
  script : s.script = t.script

end Sys2Proof.Machine
end

