-- ==== Sys2Proof/Certificates/Slice0/Obligations.lean ====
section
/-! DEFINITION. The statements for the provers, from the numbered rules of spec/. Each docstring names the rule.
A statement about a command holds for every operand, for every configuration and for every state that meets the
conditions it names. -/

open Sys2Proof Sys2Proof.Machine

/-! ## The command word -/

/-- R46, R47, R48: the word of every command that fits its fields decodes to that command. -/
def Obligations.CommandWordDecodesToItsCommand : Prop :=
  ∀ i : Instr, i.wf = true → decode (encode i) = .ok i

/-- R46, R49, R50: every legal word is the word of the command it decodes to, and that command fits its
fields. -/
def Obligations.LegalWordIsTheWordOfItsCommand : Prop :=
  ∀ (w : CmdWord) (i : Instr), decode w = .ok i → encode i = w ∧ i.wf = true

/-- R48: every operand is the natural number in its field, read unsigned and whole: `idx` is `w[71:48]`, `a` is
`w[47:32]`, `b` is `w[31:16]`, `c` is `w[15:0]`. No value is rejected by the decoder, and what a field cannot
hold no word expresses. A value above MASK is legal and truncated by the command: the setter does what it does
with the low `B` bits alone. -/
def Obligations.OperandsAreTheFieldsReadUnsigned : Prop :=
  (∀ w : CmdWord,
    let op := w.toNat / 2 ^ 72
    let idx := w.toNat / 2 ^ 48 % 2 ^ 24
    let a := w.toNat / 2 ^ 32 % 2 ^ 16
    let b := w.toNat / 2 ^ 16 % 2 ^ 16
    let c := w.toNat % 2 ^ 16
    (op = 1 → b = 0 → c = 0 → decode w = .ok (.setChannel idx a)) ∧
    (op = 2 → decode w = .ok (.setRgb idx a b c)) ∧
    (op = 3 → a = 0 → b = 0 → c = 0 → decode w = .ok (.getChannel idx)) ∧
    (op = 4 → idx = 0 → a = 0 → b = 0 → c = 0 → decode w = .ok .write) ∧
    (op = 5 → idx = 0 → a = 0 → b = 0 → c = 0 → decode w = .ok .destroy) ∧
    (∀ i, decode w = .ok i → i.wf = true)) ∧
  (∀ (s : State) (i v : Nat), exec (.setChannel i v) s = exec (.setChannel i (v % 2 ^ s.cfg.bits)) s) ∧
  (∀ (s : State) (d r g b : Nat), exec (.setRgb d r g b) s =
    exec (.setRgb d (r % 2 ^ s.cfg.bits) (g % 2 ^ s.cfg.bits) (b % 2 ^ s.cfg.bits)) s)

/-- R49: a word is legal exactly when its opcode is one of 0x01 to 0x05 and every field that must be 0 is 0; an
all-zero word is not; and a ready block answers an illegal word `IllegalCommand`, changing no state and making
no request: only the two events and the taking of the input are new. -/
def Obligations.WordIsLegalExactlyWhenStated : Prop :=
  (∀ w : CmdWord,
    let op := w.toNat / 2 ^ 72
    let idx := w.toNat / 2 ^ 48 % 2 ^ 24
    let a := w.toNat / 2 ^ 32 % 2 ^ 16
    let b := w.toNat / 2 ^ 16 % 2 ^ 16
    let c := w.toNat % 2 ^ 16
    (∃ i, decode w = .ok i) ↔
      (op = 1 ∧ b = 0 ∧ c = 0) ∨ op = 2 ∨ (op = 3 ∧ a = 0 ∧ b = 0 ∧ c = 0) ∨
        (op = 4 ∧ idx = 0 ∧ a = 0 ∧ b = 0 ∧ c = 0) ∨ (op = 5 ∧ idx = 0 ∧ a = 0 ∧ b = 0 ∧ c = 0)) ∧
  (¬ ∃ i, decode 0 = .ok i) ∧
  (∀ (s : State) (w : CmdWord) (as : List Answer) (rest : List HostInput),
    s.cfg.ok = true → s.phase = .idle → s.script = .command w as :: rest → (¬ ∃ i, decode w = .ok i) →
    step s = .next { s with
      script := rest
      answers := as
      trace := s.trace ++ [.cmd w, .rsp .illegalCommand 0 0] })

/-- 95_test_vectors.md E-1 to E-16: the sample words decode as listed. -/
def Obligations.SampleWordsDecodeAsListed : Prop :=
  decode 0x01000000138800000000 = .ok (.setChannel 0 5000) ∧
  decode 0x0200000000C800640FA0 = .ok (.setRgb 0 200 100 4000) ∧
  decode 0x03000000000000000000 = .ok (.getChannel 0) ∧
  decode 0x04000000000000000000 = .ok .write ∧
  decode 0x05000000000000000000 = .ok .destroy ∧
  decode 0x010000180FFF00000000 = .ok (.setChannel 24 0xFFF) ∧
  decode 0x02000001FFFF10000FFF = .ok (.setRgb 1 65535 4096 4095) ∧
  decode 0x03000017000000000000 = .ok (.getChannel 23) ∧
  decode 0x00000000000000000000 = .error (.unknownOpcode 0) ∧
  decode 0x06000000000000000000 = .error (.unknownOpcode 6) ∧
  decode 0xFFFFFFFFFFFFFFFFFFFF = .error (.unknownOpcode 255) ∧
  decode 0x04000000000000000001 = .error .nonzeroC ∧
  decode 0x01000000138800010000 = .error .nonzeroB ∧
  decode 0x03000000000100000000 = .error .nonzeroA ∧
  decode 0x05000001000000000000 = .error .nonzeroIdx ∧
  decode 0x01FFFFFF000000000000 = .ok (.setChannel 16777215 0)

/-- R46, R50: carried as bytes, a command is ten bytes, the most significant first; fewer hold no command. -/
def Obligations.TenBytesCarryACommand : Prop :=
  (∀ (i : Instr) (rest : List Byte), i.wf = true →
    decodeBytes (bytesOfWord (encode i) ++ rest) = .ok (i, rest)) ∧
  (∀ bs : List Byte, bs.length < 10 → decodeBytes bs = .error .truncated)

/-! ## Reset -/

/-- R27, R36: the state after construction, for every configuration: all channels 0, Live, Low, Idle, an empty
trace, the three derived outputs, and the chain not known. -/
def Obligations.ConstructionGivesTheResetValues : Prop :=
  ∀ c : Config,
    let s := State.resetOf c
    s.val.length = c.total ∧ (∀ v ∈ s.val, v = 0) ∧ s.life = .live ∧ s.lat = .low ∧ s.phase = .idle ∧
      s.ownBus = true ∧ s.ownPin = true ∧ s.busy = false ∧ s.cfg = c ∧ s.trace = [] ∧
      s.chain.sr = .unknown ∧ s.chain.out = .unknown

/-- R111, R112, R113, R27: a reset is taken in any phase. The command in progress gives no response, the block is
as constructed, the configuration stays, and the chain is where the events so far have put it: untouched
between commands; `sr` unknown when a transfer is broken off, and as it was in every other phase; the line
still high when only `set_low` was missing, unless the environment drives it low. The model's own choices in
it: that between commands and in a transfer the outputs stay even when the environment drives a line low that
was not low (log 24), that in a pulse they stay or take `sr`, that an unanswered `set_high` leaves the line open (log 11),
and that the timer is 0 (log 13). -/
def Obligations.ResetAbandonsTheCommandInProgress : Prop :=
  ∀ (s : State) (driven : Bool) (rest : List HostInput),
    s.cfg.ok = true → s.script = .reset driven :: rest →
    ∃ t, step s = .next t ∧
      t.cfg = s.cfg ∧ t.val = List.replicate s.cfg.total 0 ∧ t.life = .live ∧ t.lat = .low ∧
      t.phase = .idle ∧ t.hold = 0 ∧ t.trace = [] ∧ t.script = rest ∧
      (s.phase = .idle → t.chain.sr = s.chain.sr ∧ t.chain.out = s.chain.out) ∧
      (s.phase = .xfer → t.chain.sr = .unknown ∧ t.chain.out = s.chain.out) ∧
      (s.phase ≠ .xfer → t.chain.sr = s.chain.sr) ∧
      (t.chain.out = s.chain.out ∨ t.chain.out = s.chain.sr) ∧
      (driven = true → t.chain.line = .low) ∧
      (driven = false → s.phase ≠ .latHigh → t.chain.line = s.chain.line)

/-! ## A step -/

/-- R56, R59: when a ready block is given a word that decodes, the step is the command's meaning on the state in
which the word has been accepted: the event `Cmd(w)` in the trace, the collaborators' answers to it at hand,
the input taken. -/
def Obligations.StepExecutesTheDecodedCommand : Prop :=
  ∀ (s : State) (w : CmdWord) (as : List Answer) (rest : List HostInput) (i : Instr),
    s.cfg.ok = true → s.phase = .idle → s.script = .command w as :: rest → decode w = .ok i →
    step s = exec i { s with trace := s.trace ++ [.cmd w], answers := as, script := rest }

/-- R56, R119, D24: a command given while a WRITE is in progress is not accepted: nothing happens (log 6: this is
also how the model's `exec` reads a busy state), and the step of a busy block leaves the presented word
where it is. -/
def Obligations.BusyBlockAcceptsNoCommand : Prop :=
  (∀ (i : Instr) (s : State), s.cfg.ok = true → s.phase ≠ .idle → exec i s = .next s) ∧
  (∀ (s t : State) (w : CmdWord) (as : List Answer) (rest : List HostInput),
    s.phase ≠ .idle → s.script = .command w as :: rest → step s = .next t →
    t.script = s.script ∧ ∀ w', Event.cmd w' ∉ t.trace.drop s.trace.length)

/-- U15 (log 7): a configuration that breaks its constraints is given no meaning. -/
def Obligations.BadConfigurationIsRefused : Prop :=
  ∀ s : State, s.cfg.ok = false →
    step s = .refused .badConfiguration ∧ ∀ i, exec i s = .refused .badConfiguration

/-- R126: a WRITE whose request is never answered waits for ever: after any number of steps it is in the same
phase, with no new event, no further command accepted, and everything of the block as it was. -/
def Obligations.UnansweredWriteWaitsForEver : Prop :=
  ∀ (s : State) (k : Nat),
    s.cfg.ok = true → s.phase ≠ .idle → s.phase ≠ .hold → s.answers = [] →
    (∀ driven rest, s.script ≠ .reset driven :: rest) →
    ∃ t, Sys2Proof.core.run k s = .next t ∧ t.phase = s.phase ∧ t.trace = s.trace ∧ t.val = s.val ∧
      t.life = s.life ∧ t.lat = s.lat ∧ t.hold = s.hold ∧ t.script = s.script ∧ t.busy = true

/-- R59, R103: every accepted word is handled in this order: an illegal word ends `IllegalCommand` whatever
`life` is; a legal one given to a destroyed block ends `Destroyed` whatever its operands are; only then does
the command's own pseudocode run. The first two change no state: only the events and the input taken are
new. -/
def Obligations.WordsAreHandledInTheStatedOrder : Prop :=
  ∀ (s : State) (w : CmdWord) (as : List Answer) (rest : List HostInput),
    s.cfg.ok = true → s.phase = .idle → s.script = .command w as :: rest →
    let u := { s with answers := as, script := rest }
    (∀ e, decode w = .error e →
      step s = .next { u with trace := s.trace ++ [.cmd w, .rsp .illegalCommand 0 0] }) ∧
    (∀ i, decode w = .ok i → s.life = .destroyed →
      step s = .next { u with trace := s.trace ++ [.cmd w, .rsp .destroyed 0 0] }) ∧
    (∀ i, decode w = .ok i → s.life = .live →
      step s = exec i { u with trace := s.trace ++ [.cmd w] } ∧ Ready { u with trace := s.trace ++ [.cmd w] })

/-- R96, R97: errors are precise. When a command ends with an error, the block is ready again, the response has
data 0, the buffer, `life` and the configuration are what they were, and so is `lat`, except after
`LatchFailed`, where it is Unknown; the cause is 0 except for the two errors a collaborator caused. -/
def Obligations.ErrorsChangeNothingElse : Prop :=
  ∀ (i : Instr) (s t : State) (st : Status) (c : Nat) (d : Value),
    s.cfg.ok = true → s.phase = .idle → exec i s = .next t → t.trace.getLast? = some (.rsp st c d) → st ≠ .ok →
    t.phase = .idle ∧ d = 0 ∧ t.val = s.val ∧ t.life = s.life ∧ t.cfg = s.cfg ∧
      (if st = .latchFailed then t.lat = .unknown else t.lat = s.lat) ∧
      (st ≠ .latchFailed → st ≠ .transferFailed → c = 0 ∧ t.chain = s.chain)

/-- R125: the block never halts by itself: in every state of an admitted configuration, and after any number of
steps, there is a next state; never a fault, never a refusal. The model's own choices in it: that a WRITE which
waits for an answer takes a step that changes nothing of the block, where U14 calls it stuck (log 5), and that
an error is a next state and no fault (log 15). -/
def Obligations.BlockNeverHalts : Prop :=
  ∀ (s : State) (k : Nat), s.cfg.ok = true → ∃ t, Sys2Proof.core.run k s = .next t ∧ t.cfg = s.cfg

/-- R120, R39 (d) (log 21): between two WRITEs another user of the bus may shift bytes into the chain. What the
chips show stays, the block notices nothing, and the shift registers are unknown until the next successful
transfer. -/
def Obligations.OtherBusUseLeavesTheOutputs : Prop :=
  ∀ (s : State) (rest : List HostInput), s.cfg.ok = true → s.phase = .idle → s.script = .otherBusUse :: rest →
    step s = .next { s with script := rest, chain := { s.chain with sr := .unknown } }

/-! ## The buffer commands -/

/-- R60: SET_CHANNEL stores the low `B` bits of the value in the one entry and answers OK; an index `>= L` answers
IndexOutOfRange and writes nothing. Nothing else changes. -/
def Obligations.SetChannelStoresTheTruncatedValue : Prop :=
  ∀ (s : State) (i v : Nat), Ready s →
    exec (.setChannel i v) s = .next
      (if i < s.cfg.total then
        { s with
          val := s.val.set i (BitVec.ofNat 16 (v % 2 ^ s.cfg.bits))
          trace := s.trace ++ [.rsp .ok 0 0] }
      else { s with trace := s.trace ++ [.rsp .indexOutOfRange 0 0] })

/-- R61: SET_RGB writes the three entries `d*C + o`, red, green, blue in this order, each truncated, and answers
OK; exactly when `d >= N` it answers IndexOutOfRange and writes none of them. -/
def Obligations.SetRgbStoresThreeChannels : Prop :=
  ∀ (s : State) (d r g b : Nat), Ready s →
    exec (.setRgb d r g b) s = .next
      (if d < s.cfg.n then
        { s with
          val := ((s.val.set (d * s.cfg.channels + s.cfg.rgbOff.r) (BitVec.ofNat 16 (r % 2 ^ s.cfg.bits))).set
            (d * s.cfg.channels + s.cfg.rgbOff.g) (BitVec.ofNat 16 (g % 2 ^ s.cfg.bits))).set
            (d * s.cfg.channels + s.cfg.rgbOff.b) (BitVec.ofNat 16 (b % 2 ^ s.cfg.bits))
          trace := s.trace ++ [.rsp .ok 0 0] }
      else { s with trace := s.trace ++ [.rsp .indexOutOfRange 0 0] })

/-- R62: GET_CHANNEL answers OK with the entry, which is at most MASK; an index `>= L` answers IndexOutOfRange.
No state is written. -/
def Obligations.GetChannelRespondsTheEntry : Prop :=
  ∀ (s : State) (i : Nat), Ready s →
    exec (.getChannel i) s = .next
      (if i < s.cfg.total then { s with trace := s.trace ++ [.rsp .ok 0 (s.val.getD i 0)] }
      else { s with trace := s.trace ++ [.rsp .indexOutOfRange 0 0] }) ∧
    (bufferWf s.cfg s.val = true → (s.val.getD i 0).toNat ≤ 2 ^ s.cfg.bits - 1)

/-- R63: reading a channel back after setting it yields `v & MASK = v mod 2^B`, for every natural number `v`; the
three entries SET_RGB writes hold the same of its values (with different offsets: of equal ones the later write
wins, R61); and truncation is idempotent. -/
def Obligations.ReadBackYieldsTheTruncatedValue : Prop :=
  (∀ (s : State) (i v : Nat), Ready s → bufferWf s.cfg s.val = true → i < s.cfg.total →
    ∃ t u : State, exec (.setChannel i v) s = .next t ∧ exec (.getChannel i) t = .next u ∧
      ∃ d : Value, u.trace = t.trace ++ [.rsp .ok 0 d] ∧ d.toNat = v &&& s.cfg.mask ∧
        d.toNat = v % 2 ^ s.cfg.bits) ∧
  (∀ (s : State) (d r g b : Nat), Ready s → bufferWf s.cfg s.val = true → d < s.cfg.n →
    s.cfg.rgbOff.r ≠ s.cfg.rgbOff.g → s.cfg.rgbOff.r ≠ s.cfg.rgbOff.b → s.cfg.rgbOff.g ≠ s.cfg.rgbOff.b →
    ∃ t : State, exec (.setRgb d r g b) s = .next t ∧
      (t.val.getD (d * s.cfg.channels + s.cfg.rgbOff.r) 0).toNat = r &&& s.cfg.mask ∧
      (t.val.getD (d * s.cfg.channels + s.cfg.rgbOff.g) 0).toNat = g &&& s.cfg.mask ∧
      (t.val.getD (d * s.cfg.channels + s.cfg.rgbOff.b) 0).toNat = b &&& s.cfg.mask) ∧
  (∀ (c : Config) (v : Nat), truncate c (truncate c v).toNat = truncate c v)

/-- R17, R30, R40, R60, R61, R62: the frame of the three buffer commands. Whenever one of them gives a next state,
everything but the trace, and for the setters the addressed entries, is as it was: the configuration, `life`,
`lat`, `phase`, the timer, the chain, the free values, the answers and the script, the buffer's length, and
every other entry (every entry, for GET_CHANNEL). -/
def Obligations.BufferCommandsFrame : Prop :=
  (∀ (i : Instr) (s t : State), i ≠ .write → i ≠ .destroy → exec i s = .next t →
    t.cfg = s.cfg ∧ t.life = s.life ∧ t.lat = s.lat ∧ t.phase = s.phase ∧ t.hold = s.hold ∧
      t.chain = s.chain ∧ t.draws = s.draws ∧ t.answers = s.answers ∧ t.script = s.script ∧
      t.val.length = s.val.length) ∧
  (∀ (s t : State) (i v : Nat), exec (.setChannel i v) s = .next t →
    ∀ j, j ≠ i → t.val[j]? = s.val[j]?) ∧
  (∀ (s t : State) (d r g b : Nat), exec (.setRgb d r g b) s = .next t →
    ∀ j, j ≠ d * s.cfg.channels + s.cfg.rgbOff.r → j ≠ d * s.cfg.channels + s.cfg.rgbOff.g →
      j ≠ d * s.cfg.channels + s.cfg.rgbOff.b → t.val[j]? = s.val[j]?) ∧
  (∀ (s t : State) (i : Nat), exec (.getChannel i) s = .next t → t.val = s.val)

/-! ## Ownership -/

/-- R92: DESTROY sets `life`, emits `Own(0)` and answers OK; both ownership outputs fall; nothing else changes:
not the buffer, not `lat`, not the chain. A block already destroyed answers `Destroyed`. -/
def Obligations.DestroyGivesUpBothCapabilities : Prop :=
  (∀ s : State, Ready s →
    exec .destroy s = .next { s with life := .destroyed, trace := s.trace ++ [.own0, .rsp .ok 0 0] }) ∧
  (∀ s t : State, Ready s → exec .destroy s = .next t →
    s.ownBus = true ∧ s.ownPin = true ∧ t.ownBus = false ∧ t.ownPin = false) ∧
  (∀ s : State, s.cfg.ok = true → s.phase = .idle → s.life = .destroyed →
    exec .destroy s = .next { s with trace := s.trace ++ [.rsp .destroyed 0 0] })

/-- R102: every legal command given to a destroyed block ends `Destroyed`; no state is written and nothing is
requested. -/
def Obligations.DestroyedBlockOnlyAnswersDestroyed : Prop :=
  ∀ (i : Instr) (s : State), s.cfg.ok = true → s.phase = .idle → s.life = .destroyed →
    exec i s = .next { s with trace := s.trace ++ [.rsp .destroyed 0 0] }

/-! ## WRITE -/

/-- R87: the four event traces of one WRITE, its response and `lat` in each; the buffer, `life` and the
configuration are never written and the block is ready again. -/
def Obligations.WriteHasTheFourTraces : Prop :=
  ∀ (s : State) (e : Nat) (rest : List Answer), Ready s →
    let f := serialize s.cfg s.val
    (s.answers = .ok :: .ok :: .ok :: rest →
      ∃ t, exec .write s = .next t ∧
        t.trace = s.trace ++ [.xfer f, .xferAns .ok, .high, .highAns .ok, .held, .low, .lowAns .ok, .rsp .ok 0 0] ∧
        t.lat = .low ∧ t.phase = .idle ∧ t.val = s.val ∧ t.life = s.life ∧ t.cfg = s.cfg) ∧
    (s.answers = .err e :: rest →
      ∃ t, exec .write s = .next t ∧
        t.trace = s.trace ++ [.xfer f, .xferAns (.err e), .rsp .transferFailed e 0] ∧
        t.lat = s.lat ∧ t.phase = .idle ∧ t.val = s.val ∧ t.life = s.life ∧ t.cfg = s.cfg) ∧
    (s.answers = .ok :: .err e :: rest →
      ∃ t, exec .write s = .next t ∧
        t.trace = s.trace ++ [.xfer f, .xferAns .ok, .high, .highAns (.err e), .rsp .latchFailed e 0] ∧
        t.lat = .unknown ∧ t.phase = .idle ∧ t.val = s.val ∧ t.life = s.life ∧ t.cfg = s.cfg) ∧
    (s.answers = .ok :: .ok :: .err e :: rest →
      ∃ t, exec .write s = .next t ∧
        t.trace = s.trace ++
          [.xfer f, .xferAns .ok, .high, .highAns .ok, .held, .low, .lowAns (.err e), .rsp .latchFailed e 0] ∧
        t.lat = .unknown ∧ t.phase = .idle ∧ t.val = s.val ∧ t.life = s.life ∧ t.cfg = s.cfg)

/-- R94, R126: with fewer answers than requests a WRITE has made its requests so far and waits for the next
answer, in the phase that waits for it; it has not responded. -/
def Obligations.WriteWaitsForTheNextAnswer : Prop :=
  ∀ s : State, Ready s →
    let f := serialize s.cfg s.val
    (s.answers = [] →
      ∃ t, exec .write s = .next t ∧ t.phase = .xfer ∧ t.lat = s.lat ∧ t.trace = s.trace ++ [.xfer f]) ∧
    (s.answers = [.ok] →
      ∃ t, exec .write s = .next t ∧ t.phase = .latHigh ∧ t.lat = s.lat ∧
        t.trace = s.trace ++ [.xfer f, .xferAns .ok, .high]) ∧
    (s.answers = [.ok, .ok] →
      ∃ t, exec .write s = .next t ∧ t.phase = .latLow ∧ t.lat = .high ∧
        t.trace = s.trace ++ [.xfer f, .xferAns .ok, .high, .highAns .ok, .held, .low])

/-- R126: a WRITE ends, and the block is ready again, exactly when every request it makes is answered. -/
def Obligations.WriteEndsExactlyWhenAnswered : Prop :=
  ∀ s : State, Ready s →
    ∃ t, exec .write s = .next t ∧ (t.phase = .idle ↔ answered s.answers = true)

/-- R82: a failed transfer. The whole next state: only the three events, the answer taken, and the chain's shift
registers, which hold an unknown mixture (R38); no pin request; `val`, `life`, `lat` and what the chips show
are as they were. -/
def Obligations.FailedTransferTouchesNoLatch : Prop :=
  ∀ (s : State) (e : Nat) (rest : List Answer), Ready s → s.answers = .err e :: rest →
    exec .write s = .next { s with
      answers := rest
      chain := { s.chain with sr := .unknown }
      trace := s.trace ++
        [.xfer (serialize s.cfg s.val), .xferAns (.err e), .rsp .transferFailed e 0] }

/-- R85: a failed latch drive ends `LatchFailed` with the collaborator's cause, `lat` Unknown, the buffer and
`life` as they were; after a failed `set_high` no `set_low` is requested. The frame is sent, and what the chips
show is what they showed or that frame (R39 (b)). -/
def Obligations.FailedLatchDriveLeavesTheBuffer : Prop :=
  ∀ (s t : State) (e : Nat) (rest : List Answer), Ready s →
    s.answers = .ok :: .err e :: rest ∨ s.answers = .ok :: .ok :: .err e :: rest → exec .write s = .next t →
    t.trace.getLast? = some (.rsp .latchFailed e 0) ∧ t.lat = .unknown ∧ t.val = s.val ∧ t.life = s.life ∧
      t.chain.sr = .holds (serialize s.cfg s.val) ∧
      (t.chain.out = s.chain.out ∨ t.chain.out = .holds (serialize s.cfg s.val)) ∧
      (s.answers = .ok :: .err e :: rest → .low ∉ t.trace.drop s.trace.length) ∧
      (s.answers = .ok :: .ok :: .err e :: rest → .low ∈ t.trace.drop s.trace.length)

/-- R86: on every exit of WRITE, and while it waits, the buffer is what it was and every response it gave has
data 0. With it the rest of WRITE's frame: `life`, the configuration and the host's script are not written,
and the trace only grows. -/
def Obligations.WriteNeverTouchesTheBuffer : Prop :=
  ∀ s t : State, exec .write s = .next t →
    t.val = s.val ∧ t.life = s.life ∧ t.cfg = s.cfg ∧ t.script = s.script ∧
      ∃ ev, t.trace = s.trace ++ ev ∧ ∀ st c d, .rsp st c d ∈ ev → d = 0

/-- R88: how often one WRITE requests what, and in which order. `Transfer` exactly once; `SetHigh` at most once,
and once exactly when the transfer was answered `Ok`; `SetLow` at most once, and once exactly when `SetHigh` was
answered `Ok`; no pin request before the transfer's `Ok`; `SetHigh` before `SetLow`. No other command requests
a transfer or drives the pin. -/
def Obligations.WriteRequestsEachAtMostOnce : Prop :=
  (∀ s t : State, Ready s → exec .write s = .next t →
    let f := serialize s.cfg s.val
    ∃ ev : List Event, t.trace = s.trace ++ ev ∧
      (∀ g, .xfer g ∈ ev → g = f) ∧ ev.count (.xfer f) = 1 ∧
      ev.count .high = (if .xferAns .ok ∈ ev then 1 else 0) ∧
      ev.count .low = (if .highAns .ok ∈ ev then 1 else 0) ∧
      (∀ k : Nat, ev[k]? = some Event.high ∨ ev[k]? = some Event.low →
        ∃ j, j < k ∧ ev[j]? = some (Event.xferAns .ok)) ∧
      (∀ k : Nat, ev[k]? = some Event.low → ∃ j, j < k ∧ ev[j]? = some Event.high)) ∧
  (∀ (i : Instr) (s t : State), i ≠ .write → exec i s = .next t →
    ∃ ev, t.trace = s.trace ++ ev ∧ (∀ g, .xfer g ∉ ev) ∧ .high ∉ ev ∧ .low ∉ ev)

/-- R42: the latch pulse is the barrier. When a WRITE is accepted with `lat = Low` and ends OK, the chips show
exactly the buffer as it was; when it ends TransferFailed they show what they showed; when it ends LatchFailed
they show one of the two. The premise that the line itself is low is the launch premise of R114 (c). No other
command touches the chain. -/
def Obligations.WriteIsTheBarrier : Prop :=
  (∀ s t : State, Ready s → LineLow s → exec .write s = .next t →
    (t.trace.getLast? = some (.rsp .ok 0 0) → t.chain.out = .holds (serialize s.cfg s.val)) ∧
    (∀ e, t.trace.getLast? = some (.rsp .transferFailed e 0) → t.chain.out = s.chain.out) ∧
    (∀ e, t.trace.getLast? = some (.rsp .latchFailed e 0) →
      t.chain.out = s.chain.out ∨ t.chain.out = .holds (serialize s.cfg s.val))) ∧
  (∀ (i : Instr) (s t : State), i ≠ .write → exec i s = .next t → t.chain = s.chain)

/-- R38, R39: what a WRITE whose transfer succeeded leaves in the chain, whatever `lat` was: the shift registers
hold the frame, and the chips show the old frame or the new one, never anything else; a WRITE that ends OK
leaves the line low. -/
def Obligations.ChipsShowTheOldOrTheNewFrame : Prop :=
  ∀ (s t : State) (rest : List Answer), Ready s → s.answers = .ok :: rest → exec .write s = .next t →
    t.chain.sr = .holds (serialize s.cfg s.val) ∧
      (t.chain.out = s.chain.out ∨ t.chain.out = .holds (serialize s.cfg s.val)) ∧
      (t.trace.getLast? = some (.rsp .ok 0 0) → t.chain.line = .low)

/-- R90: a WRITE repeated after a successful one with the buffer unchanged sends the same frame and leaves what
the chips show as it was. -/
def Obligations.RepeatedWriteChangesNothingShown : Prop :=
  ∀ (s : State) (rest : List Answer), Ready s → LineLow s →
    s.answers = [.ok, .ok, .ok, .ok, .ok, .ok] ++ rest →
    ∃ t u : State, exec .write s = .next t ∧ exec .write t = .next u ∧
      t.trace.drop s.trace.length = u.trace.drop t.trace.length ∧ u.chain = t.chain ∧ u.lat = t.lat

/-- R94: the transition table of `phase`, row by row; a phase waits for its one event and without it nothing
moves (the timer's periods apart); and every other command is executed wholly in Idle and leaves the block
there. That the timer is loaded with `LATCH_HOLD_CYCLES` and counted one period for each transition is R84 and
R108, and that the hold lasts exactly so long is the model's choice (log 13). -/
def Obligations.PhaseTableHolds : Prop :=
  (∀ s : State, Ready s → s.answers = [] →
    ∃ t, exec .write s = .next t ∧ t.phase = .xfer ∧ t.trace = s.trace ++ [.xfer (serialize s.cfg s.val)]) ∧
  (∀ (s : State) (rest : List Answer), s.phase = .xfer → s.answers = .ok :: rest →
    s.advance.phase = .latHigh ∧ s.advance.trace = s.trace ++ [.xferAns .ok, .high]) ∧
  (∀ (s : State) (e : Nat) (rest : List Answer), s.phase = .xfer → s.answers = .err e :: rest →
    s.advance.phase = .idle ∧ s.advance.trace = s.trace ++ [.xferAns (.err e), .rsp .transferFailed e 0]) ∧
  (∀ (s : State) (rest : List Answer), s.phase = .latHigh → s.answers = .ok :: rest →
    s.advance.phase = .hold ∧ s.advance.lat = .high ∧ s.advance.hold = s.cfg.holdCycles ∧
      s.advance.trace = s.trace ++ [.highAns .ok]) ∧
  (∀ (s : State) (e : Nat) (rest : List Answer), s.phase = .latHigh → s.answers = .err e :: rest →
    s.advance.phase = .idle ∧ s.advance.lat = .unknown ∧
      s.advance.trace = s.trace ++ [.highAns (.err e), .rsp .latchFailed e 0]) ∧
  (∀ s : State, s.phase = .hold → s.hold = 0 →
    s.advance.phase = .latLow ∧ s.advance.trace = s.trace ++ [.held, .low]) ∧
  (∀ (s : State) (rest : List Answer), s.phase = .latLow → s.answers = .ok :: rest →
    s.advance.phase = .idle ∧ s.advance.lat = .low ∧ s.advance.trace = s.trace ++ [.lowAns .ok, .rsp .ok 0 0]) ∧
  (∀ (s : State) (e : Nat) (rest : List Answer), s.phase = .latLow → s.answers = .err e :: rest →
    s.advance.phase = .idle ∧ s.advance.lat = .unknown ∧
      s.advance.trace = s.trace ++ [.lowAns (.err e), .rsp .latchFailed e 0]) ∧
  (∀ s : State, s.phase = .xfer ∨ s.phase = .latHigh ∨ s.phase = .latLow → s.answers = [] → s.advance = s) ∧
  (∀ (s : State) (k : Nat), s.phase = .hold → s.hold = k + 1 → s.advance = { s with hold := k }) ∧
  (∀ (i : Instr) (s : State), i ≠ .write → Ready s → ∃ t, exec i s = .next t ∧ t.phase = .idle)

/-- R84, R108: after `SetHigh` is answered `Ok` the timer is loaded with `LATCH_HOLD_CYCLES`; for as many periods
as it stands at nothing happens, and then the hold ends and `SetLow` is requested (log 13: the model waits
exactly that long). -/
def Obligations.LatchIsHeldForTheHoldTime : Prop :=
  (∀ (s : State) (rest : List Answer), s.phase = .latHigh → s.answers = .ok :: rest →
    s.advance.phase = .hold ∧ s.advance.hold = s.cfg.holdCycles) ∧
  (∀ s : State, s.phase = .hold →
    (∀ k, k ≤ s.hold → (State.advanceBy k s).phase = .hold ∧ (State.advanceBy k s).trace = s.trace) ∧
    (State.advanceBy (s.hold + 1) s).phase = .latLow ∧
    (State.advanceBy (s.hold + 1) s).trace = s.trace ++ [.held, .low])

/-! ## The serializer -/

/-- R66: the two forms of the serializer define the same frame: the block form, read bit by bit, is the bit
form. -/
def Obligations.BlockFormIsTheBitForm : Prop :=
  ∀ (c : Config) (val : List Value) (p : Nat), p < 8 * (c.n * (c.hdr.length + c.bits * c.channels / 8)) →
    lineBit (serialize c val) p = frameBit c val p

/-- R71: the length of a frame, whatever the values. -/
def Obligations.FrameHasItsLength : Prop :=
  ∀ (c : Config) (val : List Value),
    (serialize c val).length = c.n * (c.hdr.length + c.bits * c.channels / 8) ∧
    (c.variant = .twelveBit24Channel → c.hdr = [] → (serialize c val).length = 36 * c.n) ∧
    (c.variant = .sixteenBit12Channel → (serialize c val).length = (c.hdr.length + 24) * c.n)

/-- R67: the chip blocks stand in descending device index: that of device `d` at offset
`(N - 1 - d) * BLOCK_BYTES`. -/
def Obligations.ChipBlocksStandInDescendingOrder : Prop :=
  ∀ (c : Config) (val : List Value) (d : Nat), d < c.n →
    ((serialize c val).drop ((c.n - 1 - d) * c.blockBytes)).take c.blockBytes = chipBlock c val d

/-- R69: the twelve-bit packing. The bytes `3j`, `3j + 1`, `3j + 2` of the chip block of device `d` are
`v0[11:4]`, `v0[3:0]` above `v1[11:8]`, and `v1[7:0]`, for the pair of channels `2j`, `2j + 1`. -/
def Obligations.TwelveBitPairsPackIntoThreeBytes : Prop :=
  ∀ (c : Config) (val : List Value) (d j : Nat),
    c.variant = .twelveBit24Channel → c.hdr = [] → d < c.n → j < 12 →
    let v0 := (val.getD (24 * d + 2 * j) 0).toNat
    let v1 := (val.getD (24 * d + 2 * j + 1) 0).toNat
    let o := (c.n - 1 - d) * 36
    let f := serialize c val
    (f.getD (o + 3 * j) 0).toNat = v0 / 16 % 256 ∧
    (f.getD (o + 3 * j + 1) 0).toNat = v0 % 16 * 16 + v1 / 256 % 16 ∧
    (f.getD (o + 3 * j + 2) 0).toNat = v1 % 256

/-- R70: the sixteen-bit layout. After the control word the bytes `H + 2c`, `H + 2c + 1` of the chip block of
device `d` are the high and the low byte of channel `c`; the control word itself stands before them (R72). -/
def Obligations.SixteenBitValuesAreTwoBytes : Prop :=
  ∀ (c : Config) (val : List Value) (d k : Nat),
    c.variant = .sixteenBit12Channel → d < c.n → k < 12 →
    let v := (val.getD (12 * d + k) 0).toNat
    let h := c.hdr.length
    let o := (c.n - 1 - d) * (h + 24)
    let f := serialize c val
    (f.getD (o + h + 2 * k) 0).toNat = v / 256 ∧ (f.getD (o + h + 2 * k + 1) 0).toNat = v % 256 ∧
    (∀ m, m < h → f.getD (o + m) 0 = c.hdr.getD m 0)

/-- R73, R91: the empty chain has the empty frame, and WRITE still requests the transfer of it and pulses the
latch, or ends TransferFailed when the collaborator refuses it. -/
def Obligations.EmptyChainHasTheEmptyFrame : Prop :=
  (∀ (c : Config) (val : List Value), c.n = 0 → serialize c val = []) ∧
  (∀ s : State, Ready s → s.cfg.n = 0 → s.answers = [.ok, .ok, .ok] →
    ∃ t, exec .write s = .next t ∧
      t.trace = s.trace ++
        [.xfer [], .xferAns .ok, .high, .highAns .ok, .held, .low, .lowAns .ok, .rsp .ok 0 0]) ∧
  (∀ (s : State) (e : Nat), Ready s → s.cfg.n = 0 → s.answers = [.err e] →
    ∃ t, exec .write s = .next t ∧
      t.trace = s.trace ++ [.xfer [], .xferAns (.err e), .rsp .transferFailed e 0])

/-- R74: of an all-zero buffer every channel-data byte is 0; with an all-zero (or no) control word the whole frame
is `FRAME_BYTES` zero bytes; in general it is `N` copies of the control word and the zero bytes of one chip.
The buffer after reset is such a buffer. -/
def Obligations.ZeroBufferHasZeroChannelData : Prop :=
  ∀ (c : Config) (val : List Value), (∀ v ∈ val, v = 0) →
    (∀ d k, d < c.n → k < c.bits * c.channels / 8 →
      (serialize c val).getD ((c.n - 1 - d) * c.blockBytes + c.hdr.length + k) 0 = 0) ∧
    ((∀ b ∈ c.hdr, b = 0) → serialize c val = List.replicate c.frameBytes 0) ∧
    serialize c val = (List.replicate c.n (c.hdr ++ List.replicate (c.bits * c.channels / 8) 0)).flatten ∧
    (∀ v ∈ (State.resetOf c).val, v = 0)

/-- R75: the chain-order property. With two chips and only channel 0 of device 1 set, its bits stand first in the
channel data of the first chip block, and the channel data of the second, device 0, is all 0. -/
def Obligations.LastChipIsSentFirst : Prop :=
  ∀ (c : Config) (x : Value), c.ok = true → c.n = 2 → x.toNat ≤ c.mask →
    let f := serialize c ((List.replicate c.total 0).set c.channels x)
    (c.variant = .twelveBit24Channel →
      (f.getD 0 0).toNat = x.toNat / 16 ∧ (f.getD 1 0).toNat = x.toNat % 16 * 16) ∧
    (c.variant = .sixteenBit12Channel →
      (f.getD c.hdr.length 0).toNat = x.toNat / 256 ∧ (f.getD (c.hdr.length + 1) 0).toNat = x.toNat % 256) ∧
    (∀ k, k < c.bits * c.channels / 8 → f.getD (c.blockBytes + c.hdr.length + k) 0 = 0)

/-- R76: locality. Entry `d*C + c` stands in exactly the `B` frame bits from `p0` on, the most significant first;
no other frame bit depends on it, so that changing it changes at most two frame bytes and no other chip
block; and the bits of two entries do not overlap. -/
def Obligations.EachEntryHasItsOwnFrameBits : Prop :=
  ∀ (cfg : Config) (val : List Value) (d c : Nat), d < cfg.n → c < cfg.channels →
    let p0 := 8 * ((cfg.n - 1 - d) * cfg.blockBytes + cfg.hdr.length) + cfg.bits * c
    (∀ j, j < cfg.bits →
      lineBit (serialize cfg val) (p0 + j) = (val.getD (d * cfg.channels + c) 0).getLsbD (cfg.bits - 1 - j)) ∧
    (∀ (x : Value) (p : Nat), p < p0 ∨ p0 + cfg.bits ≤ p →
      lineBit (serialize cfg (val.set (d * cfg.channels + c) x)) p = lineBit (serialize cfg val) p) ∧
    (∀ (x : Value) (m : Nat), m ≠ p0 / 8 → m ≠ p0 / 8 + 1 →
      (serialize cfg (val.set (d * cfg.channels + c) x)).getD m 0 = (serialize cfg val).getD m 0) ∧
    (∀ (x : Value) (d' : Nat), d' ≠ d →
      chipBlock cfg (val.set (d * cfg.channels + c) x) d' = chipBlock cfg val d') ∧
    (∀ d' c', d' < cfg.n → c' < cfg.channels → (d', c') ≠ (d, c) →
      let p1 := 8 * ((cfg.n - 1 - d') * cfg.blockBytes + cfg.hdr.length) + cfg.bits * c'
      p1 + cfg.bits ≤ p0 ∨ p0 + cfg.bits ≤ p1)

/-- R77: no loss. Two buffers of a configuration with the same frame are equal. -/
def Obligations.FrameDeterminesTheBuffer : Prop :=
  ∀ (c : Config) (val val' : List Value), bufferWf c val = true → bufferWf c val' = true →
    serialize c val = serialize c val' → val = val'

/-! ## Invariants of the whole machine -/

/-- R15, R16, R22, R38, R84, R92, R108, R112: every step keeps the state's invariant: `L` entries of at most `B`
bits; a WRITE in progress only while Live; the timer idle outside Hold and never above the hold time; the line
driven high between the answers of the two pin requests; the pin requested only with the whole frame in the
chain. The model's own in it: that `sr` is unknown while a transfer runs (log 9), and that the timer is 0 outside
Hold and never above `LATCH_HOLD_CYCLES` (log 13: R108 calls it idle there without a value, and R84 lets the
wait be longer). -/
def Obligations.EveryStepKeepsTheInvariant : Prop :=
  ∀ s t : State, Inv s → step s = .next t → Inv t

/-- R52, R87, R88, R116: every step keeps the protocol of the trace, from any state that has it: each accepted
word ends with exactly one response, one transfer is requested in a WRITE, `set_high` only after the transfer's
`Ok`, `set_low` only after the `Ok` of `set_high` and the hold; and the phase says where the trace stands. -/
def Obligations.EveryStepKeepsTheProtocol : Prop :=
  ∀ s t : State, TraceKeepsProtocol s → step s = .next t → TraceKeepsProtocol t

/-- R27: the state after reset of every configuration, that of `State.reset` among them (log 2), has the invariant
and the protocol. The invariant's clauses on the timer rest on its value 0 at reset, which is the model's choice
(log 13); R27 gives none. -/
def Obligations.ConstructionHasTheInvariants : Prop :=
  Inv State.reset ∧ TraceKeepsProtocol State.reset ∧
    ∀ c : Config, Inv (State.resetOf c) ∧ TraceKeepsProtocol (State.resetOf c)

/-- R89, R39 (d): in every step from a state with the invariant, what the chips show stays, or becomes the whole
frame of the buffer: never a mixture of two frames. For a step that is a reset this rests on the model's reading
of R112 in a pulse (log 11) and on its choice between commands and in a transfer (log 24). -/
def Obligations.OutputsAreNeverAMixture : Prop :=
  ∀ s t : State, Inv s → step s = .next t →
    t.chain.out = s.chain.out ∨ t.chain.out = .holds (serialize s.cfg s.val)

/-- R17, R20, R21, R22, R104: who writes what. No step changes the configuration. The buffer changes only by a
reset or by a setter; `life` only by a reset or, from Live to Destroyed, by DESTROY; `lat` only by a reset or by
a WRITE. -/
def Obligations.OnlyTheNamedCommandsWriteEachPart : Prop :=
  ∀ s t : State, step s = .next t →
    let reset := ∃ driven rest, s.script = .reset driven :: rest
    let runs := fun i : Instr =>
      s.phase = .idle ∧ ∃ w as rest, s.script = .command w as :: rest ∧ decode w = .ok i
    t.cfg = s.cfg ∧
    (t.val = s.val ∨ reset ∨ (∃ i v, runs (.setChannel i v)) ∨ ∃ d r g b, runs (.setRgb d r g b)) ∧
    (t.life = s.life ∨ reset ∨ (runs .destroy ∧ s.life = .live ∧ t.life = .destroyed)) ∧
    (t.lat = s.lat ∨ reset ∨ runs .write ∨ s.phase ≠ .idle)

/-- R22, R24: the block does not look at `lat`, at the chain or at the free values. Two states that differ only
there take steps that differ only there: what the block does and what the host sees is the same. -/
def Obligations.BlockDoesNotLookAtTheChain : Prop :=
  ∀ s t s' : State, SameBlock s t → step s = .next s' → ∃ t', step t = .next t' ∧ SameBlock s' t'

/-! ## The ports -/

/-- R52, R96: the numbers of the six status codes; they are told apart, and the codes 6 to 15 name none. -/
def Obligations.StatusCodesAreToldApart : Prop :=
  (Status.ok.code = 0 ∧ Status.indexOutOfRange.code = 1 ∧ Status.transferFailed.code = 2 ∧
    Status.latchFailed.code = 3 ∧ Status.illegalCommand.code = 4 ∧ Status.destroyed.code = 5) ∧
  (∀ st : Status, Status.ofCode st.code = some st) ∧
  (∀ c : BitVec 4, Status.ofCode c = none ↔ 6 ≤ c.toNat)

/-- R57: the bytes of a transfer are the frame's, in ascending offset, one taken after the other, `tx_last` with
the last one and only with it. -/
def Obligations.TransferStreamsTheFrame : Prop :=
  ∀ f : Frame, (txBytes f).length = f.length ∧
    ∀ (k : Nat) (b : Byte), f[k]? = some b → (txBytes f)[k]? = some (PortSignal.tx b (decide (k + 1 = f.length)))

/-- R57: what stands on the port when the collaborator may answer early. What it takes is always a first part of
the frame's bytes; when it keeps its duty and answers `Ok`, it is all of them; at the answer, whichever it is,
the block stops offering bytes; and the port activity of a WRITE whose transfer failed is the start, the bytes
taken until then and the response (that how many these are is the collaborator's draw and stands in no field
of State is log 14). -/
def Obligations.AnswerStopsTheByteStream : Prop :=
  (∀ (is : List TxInput) (f : Frame), ∃ k, (transferPort is f).1 = (txBytes f).take k) ∧
  (∀ (is : List TxInput) (f : Frame), keepsTransfer is f = true → (transferPort is f).2 = some .ok →
    (transferPort is f).1 = txBytes f) ∧
  (∀ (is js : List TxInput) (a : Answer) (f : Frame), (transferPort is f).2 = none →
    transferPort (is ++ .done a :: js) f = ((transferPort is f).1, some a)) ∧
  (∀ (s t : State) (is : List TxInput) (e : Nat) (rest : List Answer), Ready s → s.answers = .err e :: rest →
    exec .write s = .next t →
    let f := serialize s.cfg s.val
    portTrace [is] (t.trace.drop s.trace.length) =
      .xferStart (BitVec.ofNat 32 f.length) :: ((transferPort is f).1 ++ [.rsp 2 e 0]))
end

