-- ==== Sys2Proof/Laws/Decode.lean ====
section
/-! SUPPORT. A command word as the number R46 describes: its fields by quotient and remainder, a packed word as
a sum, and the fields of a packed word. -/

namespace Sys2Proof

/-! The fields of a word (R46). -/

theorem fieldOp_toNat (w : CmdWord) : (fieldOp w).toNat = w.toNat / 2 ^ 72 := by
  have := w.isLt
  simp only [fieldOp, BitVec.extractLsb'_toNat, Nat.shiftRight_eq_div_pow]
  omega

theorem fieldIdx_toNat (w : CmdWord) : (fieldIdx w).toNat = w.toNat / 2 ^ 48 % 2 ^ 24 := by
  simp only [fieldIdx, BitVec.extractLsb'_toNat, Nat.shiftRight_eq_div_pow]

theorem fieldA_toNat (w : CmdWord) : (fieldA w).toNat = w.toNat / 2 ^ 32 % 2 ^ 16 := by
  simp only [fieldA, BitVec.extractLsb'_toNat, Nat.shiftRight_eq_div_pow]

theorem fieldB_toNat (w : CmdWord) : (fieldB w).toNat = w.toNat / 2 ^ 16 % 2 ^ 16 := by
  simp only [fieldB, BitVec.extractLsb'_toNat, Nat.shiftRight_eq_div_pow]

theorem fieldC_toNat (w : CmdWord) : (fieldC w).toNat = w.toNat % 2 ^ 16 := by
  simp [fieldC, BitVec.extractLsb'_toNat]

theorem append_toNat {m n : Nat} (x : BitVec m) (y : BitVec n) : (x ++ y).toNat = x.toNat * 2 ^ n + y.toNat := by
  rw [BitVec.toNat_append, ← Nat.shiftLeft_add_eq_or_of_lt y.isLt, Nat.shiftLeft_eq]

/-- A packed word is the sum of its fields at their places (R46). -/
theorem packFields_toNat (op : BitVec 8) (i : BitVec 24) (a b c : BitVec 16) :
    (packFields op i a b c).toNat =
      op.toNat * 2 ^ 72 + i.toNat * 2 ^ 48 + a.toNat * 2 ^ 32 + b.toNat * 2 ^ 16 + c.toNat := by
  simp only [packFields, append_toNat]
  omega

@[simp] theorem fieldOp_pack (op : BitVec 8) (i : BitVec 24) (a b c : BitVec 16) :
    fieldOp (packFields op i a b c) = op := by
  apply BitVec.eq_of_toNat_eq
  rw [fieldOp_toNat, packFields_toNat]
  omega

@[simp] theorem fieldIdx_pack (op : BitVec 8) (i : BitVec 24) (a b c : BitVec 16) :
    fieldIdx (packFields op i a b c) = i := by
  apply BitVec.eq_of_toNat_eq
  rw [fieldIdx_toNat, packFields_toNat]
  omega

@[simp] theorem fieldA_pack (op : BitVec 8) (i : BitVec 24) (a b c : BitVec 16) :
    fieldA (packFields op i a b c) = a := by
  apply BitVec.eq_of_toNat_eq
  rw [fieldA_toNat, packFields_toNat]
  omega

@[simp] theorem fieldB_pack (op : BitVec 8) (i : BitVec 24) (a b c : BitVec 16) :
    fieldB (packFields op i a b c) = b := by
  apply BitVec.eq_of_toNat_eq
  rw [fieldB_toNat, packFields_toNat]
  omega

@[simp] theorem fieldC_pack (op : BitVec 8) (i : BitVec 24) (a b c : BitVec 16) :
    fieldC (packFields op i a b c) = c := by
  apply BitVec.eq_of_toNat_eq
  rw [fieldC_toNat, packFields_toNat]
  omega

/-- A word is its fields packed again (R46). -/
theorem packFields_fields (w : CmdWord) :
    packFields (fieldOp w) (fieldIdx w) (fieldA w) (fieldB w) (fieldC w) = w := by
  apply BitVec.eq_of_toNat_eq
  rw [packFields_toNat, fieldOp_toNat, fieldIdx_toNat, fieldA_toNat, fieldB_toNat, fieldC_toNat]
  omega

/-! The zero checks (R49). -/

theorem mustBeZero_ok {checks : List (Nat × Illegal)} {i j : Instr} :
    mustBeZero checks i = .ok j ↔ (∀ p ∈ checks, p.1 = 0) ∧ i = j := by
  induction checks with
  | nil => simp [mustBeZero]
  | cons p t ih =>
    obtain ⟨v, e⟩ := p
    by_cases h : v = 0 <;> simp [mustBeZero, h, ih]

/-! Words as bytes (R46). -/

/-- One more byte of a number, the more significant part first. -/
theorem byte_step (n k : Nat) : n / 2 ^ (k + 8) * 256 + n / 2 ^ k % 256 = n / 2 ^ k := by
  rw [Nat.pow_add, ← Nat.div_div_eq_div_mul, Nat.mul_comm]
  exact Nat.div_add_mod (n / 2 ^ k) 256

/-- The ten bytes of a word, most significant first, are the word. -/
theorem wordOfBytes_bytesOfWord (w : CmdWord) : wordOfBytes (bytesOfWord w) = w := by
  have hb : ∀ k, (w.extractLsb' k 8).toNat = w.toNat / 2 ^ k % 256 := fun k => by
    rw [BitVec.extractLsb'_toNat, Nat.shiftRight_eq_div_pow]
  have h72 : w.toNat / 2 ^ 72 % 256 = w.toNat / 2 ^ 72 := by have := w.isLt; omega
  have h := byte_step w.toNat
  apply BitVec.eq_of_toNat_eq
  rw [wordOfBytes, bytesOfWord]
  simp only [List.foldl_cons, List.foldl_nil, hb, Nat.zero_mul, Nat.zero_add, h72]
  rw [h 64, h 56, h 48, h 40, h 32, h 24, h 16, h 8, h 0, BitVec.toNat_ofNat, Nat.pow_zero, Nat.div_one,
    Nat.mod_eq_of_lt w.isLt]

@[simp] theorem bytesOfWord_length (w : CmdWord) : (bytesOfWord w).length = 10 := rfl

/-- The decoder on the bytes of a word followed by more bytes is the decoder on the word (R46, R50). -/
theorem decodeBytes_append (w : CmdWord) (rest : List Byte) :
    decodeBytes (bytesOfWord w ++ rest) =
      match decode w with
      | .ok i => .ok (i, rest)
      | .error e => .error e := by
  have h1 : (bytesOfWord w ++ rest).take 10 = bytesOfWord w := rfl
  have h2 : (bytesOfWord w ++ rest).drop 10 = rest := rfl
  have h3 : ¬ (bytesOfWord w ++ rest).length < 10 := by
    rw [List.length_append, bytesOfWord_length]; omega
  rw [decodeBytes, if_neg h3, h1, h2, wordOfBytes_bytesOfWord] <;> cases decode w <;> rfl

end Sys2Proof
end

