-- ==== Sys2Proof/Laws/State.lean ====
section
/-! SUPPORT. What each update of the state does to each field: the lemmas by which no later proof unfolds an
update. -/

namespace Sys2Proof.Machine

@[simp] theorem Level.isLow_low : Level.isLow .low = true := rfl

theorem Level.isLow_iff (l : Level) : l.isLow = true ↔ l = .low := by cases l <;> simp [Level.isLow]

/-- A draw leaves one of two things in the outputs. -/
theorem drawnOut_cases (k : Nat) (sr out : ChainReg) : drawnOut k sr out = out ∨ drawnOut k sr out = sr := by
  unfold drawnOut; cases Config.commits k <;> simp

@[simp] theorem drawnOut_same (k : Nat) (r : ChainReg) : drawnOut k r r = r := by
  unfold drawnOut; cases Config.commits k <;> rfl

@[simp] theorem State.emit_cfg (e : Event) (s : State) : (s.emit e).cfg = s.cfg := rfl
@[simp] theorem State.emit_val (e : Event) (s : State) : (s.emit e).val = s.val := rfl
@[simp] theorem State.emit_life (e : Event) (s : State) : (s.emit e).life = s.life := rfl
@[simp] theorem State.emit_lat (e : Event) (s : State) : (s.emit e).lat = s.lat := rfl
@[simp] theorem State.emit_phase (e : Event) (s : State) : (s.emit e).phase = s.phase := rfl
@[simp] theorem State.emit_hold (e : Event) (s : State) : (s.emit e).hold = s.hold := rfl
@[simp] theorem State.emit_trace (e : Event) (s : State) : (s.emit e).trace = s.trace ++ [e] := rfl
@[simp] theorem State.emit_chain (e : Event) (s : State) : (s.emit e).chain = s.chain := rfl
@[simp] theorem State.emit_draws (e : Event) (s : State) : (s.emit e).draws = s.draws := rfl
@[simp] theorem State.emit_answers (e : Event) (s : State) : (s.emit e).answers = s.answers := rfl
@[simp] theorem State.emit_script (e : Event) (s : State) : (s.emit e).script = s.script := rfl

@[simp] theorem State.respond_cfg (st : Status) (c : Nat) (d : Value) (s : State) :
    (s.respond st c d).cfg = s.cfg := rfl
@[simp] theorem State.respond_val (st : Status) (c : Nat) (d : Value) (s : State) :
    (s.respond st c d).val = s.val := rfl
@[simp] theorem State.respond_life (st : Status) (c : Nat) (d : Value) (s : State) :
    (s.respond st c d).life = s.life := rfl
@[simp] theorem State.respond_lat (st : Status) (c : Nat) (d : Value) (s : State) :
    (s.respond st c d).lat = s.lat := rfl
@[simp] theorem State.respond_phase (st : Status) (c : Nat) (d : Value) (s : State) :
    (s.respond st c d).phase = s.phase := rfl
@[simp] theorem State.respond_hold (st : Status) (c : Nat) (d : Value) (s : State) :
    (s.respond st c d).hold = s.hold := rfl
@[simp] theorem State.respond_trace (st : Status) (c : Nat) (d : Value) (s : State) :
    (s.respond st c d).trace = s.trace ++ [.rsp st c d] := rfl
@[simp] theorem State.respond_chain (st : Status) (c : Nat) (d : Value) (s : State) :
    (s.respond st c d).chain = s.chain := rfl
@[simp] theorem State.respond_draws (st : Status) (c : Nat) (d : Value) (s : State) :
    (s.respond st c d).draws = s.draws := rfl
@[simp] theorem State.respond_answers (st : Status) (c : Nat) (d : Value) (s : State) :
    (s.respond st c d).answers = s.answers := rfl
@[simp] theorem State.respond_script (st : Status) (c : Nat) (d : Value) (s : State) :
    (s.respond st c d).script = s.script := rfl

@[simp] theorem State.raise_cfg (st : Status) (c : Nat) (s : State) : (s.raise st c).cfg = s.cfg := rfl
@[simp] theorem State.raise_val (st : Status) (c : Nat) (s : State) : (s.raise st c).val = s.val := rfl
@[simp] theorem State.raise_life (st : Status) (c : Nat) (s : State) : (s.raise st c).life = s.life := rfl
@[simp] theorem State.raise_lat (st : Status) (c : Nat) (s : State) : (s.raise st c).lat = s.lat := rfl
@[simp] theorem State.raise_phase (st : Status) (c : Nat) (s : State) : (s.raise st c).phase = .idle := rfl
@[simp] theorem State.raise_hold (st : Status) (c : Nat) (s : State) : (s.raise st c).hold = s.hold := rfl
@[simp] theorem State.raise_trace (st : Status) (c : Nat) (s : State) :
    (s.raise st c).trace = s.trace ++ [.rsp st c 0] := rfl
@[simp] theorem State.raise_chain (st : Status) (c : Nat) (s : State) : (s.raise st c).chain = s.chain := rfl
@[simp] theorem State.raise_draws (st : Status) (c : Nat) (s : State) : (s.raise st c).draws = s.draws := rfl
@[simp] theorem State.raise_answers (st : Status) (c : Nat) (s : State) : (s.raise st c).answers = s.answers := rfl
@[simp] theorem State.raise_script (st : Status) (c : Nat) (s : State) : (s.raise st c).script = s.script := rfl

@[simp] theorem State.writeEntry_cfg (i v : Nat) (s : State) : (s.writeEntry i v).cfg = s.cfg := rfl
@[simp] theorem State.writeEntry_val (i v : Nat) (s : State) :
    (s.writeEntry i v).val = s.val.set i (truncate s.cfg v) := rfl
@[simp] theorem State.writeEntry_life (i v : Nat) (s : State) : (s.writeEntry i v).life = s.life := rfl
@[simp] theorem State.writeEntry_lat (i v : Nat) (s : State) : (s.writeEntry i v).lat = s.lat := rfl
@[simp] theorem State.writeEntry_phase (i v : Nat) (s : State) : (s.writeEntry i v).phase = s.phase := rfl
@[simp] theorem State.writeEntry_hold (i v : Nat) (s : State) : (s.writeEntry i v).hold = s.hold := rfl
@[simp] theorem State.writeEntry_trace (i v : Nat) (s : State) : (s.writeEntry i v).trace = s.trace := rfl
@[simp] theorem State.writeEntry_chain (i v : Nat) (s : State) : (s.writeEntry i v).chain = s.chain := rfl
@[simp] theorem State.writeEntry_draws (i v : Nat) (s : State) : (s.writeEntry i v).draws = s.draws := rfl
@[simp] theorem State.writeEntry_answers (i v : Nat) (s : State) : (s.writeEntry i v).answers = s.answers := rfl
@[simp] theorem State.writeEntry_script (i v : Nat) (s : State) : (s.writeEntry i v).script = s.script := rfl

@[simp] theorem State.drawCommit_cfg (s : State) : s.drawCommit.cfg = s.cfg := rfl
@[simp] theorem State.drawCommit_val (s : State) : s.drawCommit.val = s.val := rfl
@[simp] theorem State.drawCommit_life (s : State) : s.drawCommit.life = s.life := rfl
@[simp] theorem State.drawCommit_lat (s : State) : s.drawCommit.lat = s.lat := rfl
@[simp] theorem State.drawCommit_phase (s : State) : s.drawCommit.phase = s.phase := rfl
@[simp] theorem State.drawCommit_hold (s : State) : s.drawCommit.hold = s.hold := rfl
@[simp] theorem State.drawCommit_trace (s : State) : s.drawCommit.trace = s.trace := rfl
@[simp] theorem State.drawCommit_chain (s : State) :
    s.drawCommit.chain = { s.chain with out := drawnOut s.draws s.chain.sr s.chain.out } := rfl
@[simp] theorem State.drawCommit_draws (s : State) : s.drawCommit.draws = s.draws + 1 := rfl
@[simp] theorem State.drawCommit_answers (s : State) : s.drawCommit.answers = s.answers := rfl
@[simp] theorem State.drawCommit_script (s : State) : s.drawCommit.script = s.script := rfl

@[simp] theorem State.accept_cfg (w : CmdWord) (as : List Answer) (rest : List HostInput) (s : State) :
    (s.accept w as rest).cfg = s.cfg := rfl
@[simp] theorem State.accept_val (w : CmdWord) (as : List Answer) (rest : List HostInput) (s : State) :
    (s.accept w as rest).val = s.val := rfl
@[simp] theorem State.accept_life (w : CmdWord) (as : List Answer) (rest : List HostInput) (s : State) :
    (s.accept w as rest).life = s.life := rfl
@[simp] theorem State.accept_lat (w : CmdWord) (as : List Answer) (rest : List HostInput) (s : State) :
    (s.accept w as rest).lat = s.lat := rfl
@[simp] theorem State.accept_phase (w : CmdWord) (as : List Answer) (rest : List HostInput) (s : State) :
    (s.accept w as rest).phase = s.phase := rfl
@[simp] theorem State.accept_hold (w : CmdWord) (as : List Answer) (rest : List HostInput) (s : State) :
    (s.accept w as rest).hold = s.hold := rfl
@[simp] theorem State.accept_trace (w : CmdWord) (as : List Answer) (rest : List HostInput) (s : State) :
    (s.accept w as rest).trace = s.trace ++ [.cmd w] := rfl
@[simp] theorem State.accept_chain (w : CmdWord) (as : List Answer) (rest : List HostInput) (s : State) :
    (s.accept w as rest).chain = s.chain := rfl
@[simp] theorem State.accept_draws (w : CmdWord) (as : List Answer) (rest : List HostInput) (s : State) :
    (s.accept w as rest).draws = s.draws := rfl
@[simp] theorem State.accept_answers (w : CmdWord) (as : List Answer) (rest : List HostInput) (s : State) :
    (s.accept w as rest).answers = as := rfl
@[simp] theorem State.accept_script (w : CmdWord) (as : List Answer) (rest : List HostInput) (s : State) :
    (s.accept w as rest).script = rest := rfl

@[simp] theorem State.constructed_cfg (s : State) : s.constructed.cfg = s.cfg := rfl
@[simp] theorem State.constructed_val (s : State) : s.constructed.val = List.replicate s.cfg.total 0 := rfl
@[simp] theorem State.constructed_life (s : State) : s.constructed.life = .live := rfl
@[simp] theorem State.constructed_lat (s : State) : s.constructed.lat = .low := rfl
@[simp] theorem State.constructed_phase (s : State) : s.constructed.phase = .idle := rfl
@[simp] theorem State.constructed_hold (s : State) : s.constructed.hold = 0 := rfl
@[simp] theorem State.constructed_trace (s : State) : s.constructed.trace = [] := rfl
@[simp] theorem State.constructed_chain (s : State) : s.constructed.chain = s.chain := rfl
@[simp] theorem State.constructed_draws (s : State) : s.constructed.draws = s.draws := rfl
@[simp] theorem State.constructed_answers (s : State) : s.constructed.answers = [] := rfl
@[simp] theorem State.constructed_script (s : State) : s.constructed.script = s.script := rfl

@[simp] theorem State.busShared_cfg (s : State) : s.busShared.cfg = s.cfg := rfl
@[simp] theorem State.busShared_val (s : State) : s.busShared.val = s.val := rfl
@[simp] theorem State.busShared_life (s : State) : s.busShared.life = s.life := rfl
@[simp] theorem State.busShared_lat (s : State) : s.busShared.lat = s.lat := rfl
@[simp] theorem State.busShared_phase (s : State) : s.busShared.phase = s.phase := rfl
@[simp] theorem State.busShared_hold (s : State) : s.busShared.hold = s.hold := rfl
@[simp] theorem State.busShared_trace (s : State) : s.busShared.trace = s.trace := rfl
@[simp] theorem State.busShared_chain (s : State) : s.busShared.chain = { s.chain with sr := .unknown } := rfl
@[simp] theorem State.busShared_draws (s : State) : s.busShared.draws = s.draws := rfl
@[simp] theorem State.busShared_answers (s : State) : s.busShared.answers = s.answers := rfl
@[simp] theorem State.busShared_script (s : State) : s.busShared.script = s.script := rfl

@[simp] theorem State.takeAnswer_cfg (rest : List Answer) (s : State) : (s.takeAnswer rest).cfg = s.cfg := rfl
@[simp] theorem State.takeAnswer_val (rest : List Answer) (s : State) : (s.takeAnswer rest).val = s.val := rfl
@[simp] theorem State.takeAnswer_life (rest : List Answer) (s : State) : (s.takeAnswer rest).life = s.life := rfl
@[simp] theorem State.takeAnswer_lat (rest : List Answer) (s : State) : (s.takeAnswer rest).lat = s.lat := rfl
@[simp] theorem State.takeAnswer_phase (rest : List Answer) (s : State) : (s.takeAnswer rest).phase = s.phase := rfl
@[simp] theorem State.takeAnswer_hold (rest : List Answer) (s : State) : (s.takeAnswer rest).hold = s.hold := rfl
@[simp] theorem State.takeAnswer_trace (rest : List Answer) (s : State) : (s.takeAnswer rest).trace = s.trace := rfl
@[simp] theorem State.takeAnswer_chain (rest : List Answer) (s : State) : (s.takeAnswer rest).chain = s.chain := rfl
@[simp] theorem State.takeAnswer_draws (rest : List Answer) (s : State) : (s.takeAnswer rest).draws = s.draws := rfl
@[simp] theorem State.takeAnswer_answers (rest : List Answer) (s : State) :
    (s.takeAnswer rest).answers = rest := rfl
@[simp] theorem State.takeAnswer_script (rest : List Answer) (s : State) :
    (s.takeAnswer rest).script = s.script := rfl

@[simp] theorem State.requestTransfer_cfg (s : State) : s.requestTransfer.cfg = s.cfg := rfl
@[simp] theorem State.requestTransfer_val (s : State) : s.requestTransfer.val = s.val := rfl
@[simp] theorem State.requestTransfer_life (s : State) : s.requestTransfer.life = s.life := rfl
@[simp] theorem State.requestTransfer_lat (s : State) : s.requestTransfer.lat = s.lat := rfl
@[simp] theorem State.requestTransfer_phase (s : State) : s.requestTransfer.phase = .xfer := rfl
@[simp] theorem State.requestTransfer_hold (s : State) : s.requestTransfer.hold = s.hold := rfl
@[simp] theorem State.requestTransfer_trace (s : State) :
    s.requestTransfer.trace = s.trace ++ [.xfer (serialize s.cfg s.val)] := rfl
@[simp] theorem State.requestTransfer_chain (s : State) :
    s.requestTransfer.chain = { s.chain with sr := .unknown } := rfl
@[simp] theorem State.requestTransfer_draws (s : State) : s.requestTransfer.draws = s.draws := rfl
@[simp] theorem State.requestTransfer_answers (s : State) : s.requestTransfer.answers = s.answers := rfl
@[simp] theorem State.requestTransfer_script (s : State) : s.requestTransfer.script = s.script := rfl

@[simp] theorem State.transferDone_cfg (s : State) : s.transferDone.cfg = s.cfg := rfl
@[simp] theorem State.transferDone_val (s : State) : s.transferDone.val = s.val := rfl
@[simp] theorem State.transferDone_life (s : State) : s.transferDone.life = s.life := rfl
@[simp] theorem State.transferDone_lat (s : State) : s.transferDone.lat = s.lat := rfl
@[simp] theorem State.transferDone_phase (s : State) : s.transferDone.phase = .latHigh := rfl
@[simp] theorem State.transferDone_hold (s : State) : s.transferDone.hold = s.hold := rfl
@[simp] theorem State.transferDone_trace (s : State) :
    s.transferDone.trace = s.trace ++ [.xferAns .ok] ++ [.high] := rfl
@[simp] theorem State.transferDone_chain (s : State) :
    s.transferDone.chain = { s.chain with
      sr := .holds (serialize s.cfg s.val)
      clean := s.lat.isLow && s.chain.line.isLow } := rfl
@[simp] theorem State.transferDone_draws (s : State) : s.transferDone.draws = s.draws := rfl
@[simp] theorem State.transferDone_answers (s : State) : s.transferDone.answers = s.answers := rfl
@[simp] theorem State.transferDone_script (s : State) : s.transferDone.script = s.script := rfl

@[simp] theorem State.transferFailed_cfg (e : Nat) (s : State) : (s.transferFailed e).cfg = s.cfg := rfl
@[simp] theorem State.transferFailed_val (e : Nat) (s : State) : (s.transferFailed e).val = s.val := rfl
@[simp] theorem State.transferFailed_life (e : Nat) (s : State) : (s.transferFailed e).life = s.life := rfl
@[simp] theorem State.transferFailed_lat (e : Nat) (s : State) : (s.transferFailed e).lat = s.lat := rfl
@[simp] theorem State.transferFailed_phase (e : Nat) (s : State) : (s.transferFailed e).phase = .idle := rfl
@[simp] theorem State.transferFailed_hold (e : Nat) (s : State) : (s.transferFailed e).hold = s.hold := rfl
@[simp] theorem State.transferFailed_trace (e : Nat) (s : State) :
    (s.transferFailed e).trace = s.trace ++ [.xferAns (.err e)] ++ [.rsp .transferFailed e 0] := rfl
@[simp] theorem State.transferFailed_chain (e : Nat) (s : State) :
    (s.transferFailed e).chain = { s.chain with sr := .unknown } := rfl
@[simp] theorem State.transferFailed_draws (e : Nat) (s : State) : (s.transferFailed e).draws = s.draws := rfl
@[simp] theorem State.transferFailed_answers (e : Nat) (s : State) : (s.transferFailed e).answers = s.answers := rfl
@[simp] theorem State.transferFailed_script (e : Nat) (s : State) : (s.transferFailed e).script = s.script := rfl

@[simp] theorem State.raised_cfg (s : State) : s.raised.cfg = s.cfg := rfl
@[simp] theorem State.raised_val (s : State) : s.raised.val = s.val := rfl
@[simp] theorem State.raised_life (s : State) : s.raised.life = s.life := rfl
@[simp] theorem State.raised_lat (s : State) : s.raised.lat = .high := rfl
@[simp] theorem State.raised_phase (s : State) : s.raised.phase = .hold := rfl
@[simp] theorem State.raised_hold (s : State) : s.raised.hold = s.cfg.holdCycles := rfl
@[simp] theorem State.raised_trace (s : State) : s.raised.trace = s.trace ++ [.highAns .ok] := rfl
@[simp] theorem State.raised_chain (s : State) :
    s.raised.chain = { s.chain with
      line := .high
      out := drawnOut s.draws s.chain.sr s.chain.out } := rfl
@[simp] theorem State.raised_draws (s : State) : s.raised.draws = s.draws + 1 := rfl
@[simp] theorem State.raised_answers (s : State) : s.raised.answers = s.answers := rfl
@[simp] theorem State.raised_script (s : State) : s.raised.script = s.script := rfl

@[simp] theorem State.raiseFailed_cfg (e : Nat) (s : State) : (s.raiseFailed e).cfg = s.cfg := rfl
@[simp] theorem State.raiseFailed_val (e : Nat) (s : State) : (s.raiseFailed e).val = s.val := rfl
@[simp] theorem State.raiseFailed_life (e : Nat) (s : State) : (s.raiseFailed e).life = s.life := rfl
@[simp] theorem State.raiseFailed_lat (e : Nat) (s : State) : (s.raiseFailed e).lat = .unknown := rfl
@[simp] theorem State.raiseFailed_phase (e : Nat) (s : State) : (s.raiseFailed e).phase = .idle := rfl
@[simp] theorem State.raiseFailed_hold (e : Nat) (s : State) : (s.raiseFailed e).hold = s.hold := rfl
@[simp] theorem State.raiseFailed_trace (e : Nat) (s : State) :
    (s.raiseFailed e).trace = s.trace ++ [.highAns (.err e)] ++ [.rsp .latchFailed e 0] := rfl
@[simp] theorem State.raiseFailed_chain (e : Nat) (s : State) :
    (s.raiseFailed e).chain = { s.chain with
      line := .unknown
      out := drawnOut s.draws s.chain.sr s.chain.out } := rfl
@[simp] theorem State.raiseFailed_draws (e : Nat) (s : State) : (s.raiseFailed e).draws = s.draws + 1 := rfl
@[simp] theorem State.raiseFailed_answers (e : Nat) (s : State) : (s.raiseFailed e).answers = s.answers := rfl
@[simp] theorem State.raiseFailed_script (e : Nat) (s : State) : (s.raiseFailed e).script = s.script := rfl

@[simp] theorem State.lowerFailed_cfg (e : Nat) (s : State) : (s.lowerFailed e).cfg = s.cfg := rfl
@[simp] theorem State.lowerFailed_val (e : Nat) (s : State) : (s.lowerFailed e).val = s.val := rfl
@[simp] theorem State.lowerFailed_life (e : Nat) (s : State) : (s.lowerFailed e).life = s.life := rfl
@[simp] theorem State.lowerFailed_lat (e : Nat) (s : State) : (s.lowerFailed e).lat = .unknown := rfl
@[simp] theorem State.lowerFailed_phase (e : Nat) (s : State) : (s.lowerFailed e).phase = .idle := rfl
@[simp] theorem State.lowerFailed_hold (e : Nat) (s : State) : (s.lowerFailed e).hold = s.hold := rfl
@[simp] theorem State.lowerFailed_trace (e : Nat) (s : State) :
    (s.lowerFailed e).trace = s.trace ++ [.lowAns (.err e)] ++ [.rsp .latchFailed e 0] := rfl
@[simp] theorem State.lowerFailed_chain (e : Nat) (s : State) :
    (s.lowerFailed e).chain = { s.chain with
      line := .unknown
      out := drawnOut s.draws s.chain.sr s.chain.out } := rfl
@[simp] theorem State.lowerFailed_draws (e : Nat) (s : State) : (s.lowerFailed e).draws = s.draws + 1 := rfl
@[simp] theorem State.lowerFailed_answers (e : Nat) (s : State) : (s.lowerFailed e).answers = s.answers := rfl
@[simp] theorem State.lowerFailed_script (e : Nat) (s : State) : (s.lowerFailed e).script = s.script := rfl

@[simp] theorem State.lowered_cfg (s : State) :
    s.lowered.cfg = s.cfg := by
  unfold State.lowered; cases s.chain.clean <;> rfl
@[simp] theorem State.lowered_val (s : State) :
    s.lowered.val = s.val := by
  unfold State.lowered; cases s.chain.clean <;> rfl
@[simp] theorem State.lowered_life (s : State) :
    s.lowered.life = s.life := by
  unfold State.lowered; cases s.chain.clean <;> rfl
@[simp] theorem State.lowered_lat (s : State) :
    s.lowered.lat = .low := by
  unfold State.lowered; cases s.chain.clean <;> rfl
@[simp] theorem State.lowered_phase (s : State) :
    s.lowered.phase = .idle := by
  unfold State.lowered; cases s.chain.clean <;> rfl
@[simp] theorem State.lowered_hold (s : State) :
    s.lowered.hold = s.hold := by
  unfold State.lowered; cases s.chain.clean <;> rfl
@[simp] theorem State.lowered_trace (s : State) :
    s.lowered.trace = s.trace ++ [.lowAns .ok] ++ [.rsp .ok 0 0] := by
  unfold State.lowered; cases s.chain.clean <;> rfl
@[simp] theorem State.lowered_chain (s : State) :
    s.lowered.chain = { s.chain with
      line := .low
      out := bif s.chain.clean then s.chain.sr
        else drawnOut s.draws s.chain.sr s.chain.out } := by
  unfold State.lowered; cases s.chain.clean <;> rfl
@[simp] theorem State.lowered_draws (s : State) :
    s.lowered.draws = bif s.chain.clean then s.draws else s.draws + 1 := by
  unfold State.lowered; cases s.chain.clean <;> rfl
@[simp] theorem State.lowered_answers (s : State) :
    s.lowered.answers = s.answers := by
  unfold State.lowered; cases s.chain.clean <;> rfl
@[simp] theorem State.lowered_script (s : State) :
    s.lowered.script = s.script := by
  unfold State.lowered; cases s.chain.clean <;> rfl

end Sys2Proof.Machine
end

