-- ==== Sys2Proof/Laws/Ops.lean ====
section
/-! SUPPORT. What the shared operations can do: the prologue of every command, reset, the truncation of a value. -/

namespace Sys2Proof

theorem Config.bits_le (c : Config) : c.bits ≤ 16 := by
  unfold Config.bits; split <;> decide

theorem Config.mask_lt (c : Config) : c.mask < 2 ^ 16 := by
  unfold Config.mask Config.bits; split <;> decide

end Sys2Proof

namespace Sys2Proof.Machine

/-! The prologue (R59). -/

theorem command_of_ready {s : State} (h : Ready s) (body : State → State) : command s body = .next (body s) := by
  obtain ⟨hc, hp, hl⟩ := h
  simp [command, hc, hp, hl]

theorem command_of_destroyed {s : State} (hc : s.cfg.ok = true) (hp : s.phase = .idle)
    (hl : s.life = .destroyed) (body : State → State) : command s body = .next (s.raise .destroyed 0) := by
  simp [command, hc, hp, hl]

theorem command_of_busy {s : State} (hc : s.cfg.ok = true) (hp : s.phase ≠ .idle) (body : State → State) :
    command s body = .next s := by
  simp [command, hc, hp]

theorem command_of_bad {s : State} (hc : s.cfg.ok = false) (body : State → State) :
    command s body = .refused .badConfiguration := by
  simp [command, hc]

/-- Everything a command can do: it is refused, not accepted, ended `Destroyed`, or runs its own pseudocode. -/
theorem command_cases {s t : State} {body : State → State} (h : command s body = .next t) :
    s.cfg.ok = true ∧
      ((s.phase ≠ .idle ∧ t = s) ∨ (s.phase = .idle ∧ s.life = .destroyed ∧ t = s.raise .destroyed 0) ∨
        (s.phase = .idle ∧ s.life = .live ∧ t = body s)) := by
  unfold command at h
  split at h
  · next hc =>
    refine ⟨hc, ?_⟩
    split at h
    · next hp => split at h <;> simp_all
    · next hp => simp_all
  · cases h

/-! Reset (R111, R112). -/

@[simp] theorem State.breakOff_cfg (s : State) : s.breakOff.cfg = s.cfg := by
  unfold State.breakOff; split <;> rfl

@[simp] theorem State.breakOff_script (s : State) : s.breakOff.script = s.script := by
  unfold State.breakOff; split <;> rfl

@[simp] theorem State.breakOff_of_idle {s : State} (h : s.phase = .idle) : s.breakOff = s := by
  simp [State.breakOff, h]

@[simp] theorem State.doReset_cfg (b : Bool) (s : State) : (s.doReset b).cfg = s.cfg := by
  simp [State.doReset]
@[simp] theorem State.doReset_val (b : Bool) (s : State) :
    (s.doReset b).val = List.replicate s.cfg.total 0 := by
  simp [State.doReset]
@[simp] theorem State.doReset_life (b : Bool) (s : State) : (s.doReset b).life = .live := rfl
@[simp] theorem State.doReset_lat (b : Bool) (s : State) : (s.doReset b).lat = .low := rfl
@[simp] theorem State.doReset_phase (b : Bool) (s : State) : (s.doReset b).phase = .idle := rfl
@[simp] theorem State.doReset_hold (b : Bool) (s : State) : (s.doReset b).hold = 0 := rfl
@[simp] theorem State.doReset_trace (b : Bool) (s : State) : (s.doReset b).trace = [] := rfl
@[simp] theorem State.doReset_answers (b : Bool) (s : State) : (s.doReset b).answers = [] := rfl
@[simp] theorem State.doReset_script (b : Bool) (s : State) : (s.doReset b).script = s.script := by
  simp [State.doReset]
@[simp] theorem State.doReset_draws (b : Bool) (s : State) : (s.doReset b).draws = s.breakOff.draws := rfl
@[simp] theorem State.doReset_chain (b : Bool) (s : State) :
    (s.doReset b).chain =
      { s.breakOff.chain with
        line := if b then .low else s.breakOff.chain.line
        clean := false } := rfl

/-! Truncation (R63). -/

theorem and_mask (c : Config) (v : Nat) : v &&& c.mask = v % 2 ^ c.bits := by
  simp [Config.mask, Nat.and_two_pow_sub_one_eq_mod]

theorem truncate_toNat (c : Config) (v : Nat) : (truncate c v).toNat = v % 2 ^ c.bits := by
  have h : v % 2 ^ c.bits < 2 ^ 16 :=
    lt_of_lt_of_le (Nat.mod_lt _ (by positivity)) (Nat.pow_le_pow_right (by decide) c.bits_le)
  rw [truncate, BitVec.toNat_ofNat, and_mask, Nat.mod_eq_of_lt h]

theorem truncate_le_mask (c : Config) (v : Nat) : (truncate c v).toNat ≤ c.mask := by
  rw [truncate_toNat, Config.mask]
  have : v % 2 ^ c.bits < 2 ^ c.bits := Nat.mod_lt _ (by positivity)
  omega

/-! The buffer's well-formedness (R15, R16). -/

theorem bufferWf_iff {c : Config} {val : List Value} :
    bufferWf c val = true ↔ val.length = c.total ∧ ∀ v ∈ val, v.toNat ≤ c.mask := by
  simp [bufferWf]

theorem bufferWf_replicate (c : Config) : bufferWf c (List.replicate c.total 0#16) = true := by
  rw [bufferWf_iff]
  refine ⟨by simp, fun v hv => ?_⟩
  rw [List.eq_of_mem_replicate hv]
  simp

/-- Every write of the buffer keeps it well formed. -/
theorem bufferWf_set {c : Config} {val : List Value} (h : bufferWf c val = true) (i v : Nat) :
    bufferWf c (val.set i (truncate c v)) = true := by
  rw [bufferWf_iff] at h ⊢
  refine ⟨by simpa using h.1, fun w hw => ?_⟩
  rcases List.mem_or_eq_of_mem_set hw with h1 | rfl
  · exact h.2 w h1
  · exact truncate_le_mask c v

theorem entry_le_mask {c : Config} {val : List Value} (h : bufferWf c val = true) (i : Nat) :
    (entry val i).toNat ≤ c.mask := by
  rw [bufferWf_iff] at h
  unfold entry
  rw [List.getD_eq_getElem?_getD]
  by_cases hi : i < val.length
  · simpa [List.getElem?_eq_getElem hi] using h.2 _ (List.getElem_mem hi)
  · simp [List.getElem?_eq_none (Nat.le_of_not_lt hi)]

end Sys2Proof.Machine
end

