-- ==== Sys2Proof/Laws/PerInstr.lean ====
section
/-! SUPPORT. Statements for all instructions, one lemma for each constructor. -/

/-- The opcode field of a command's word is the command's opcode (30_encoding.md R46, R47). -/
def Sys2Proof.Laws.OpcodeField.Statement (i : Sys2Proof.Instr) : Prop :=
  Sys2Proof.fieldOp (Sys2Proof.encode i) = i.opcode

theorem Sys2Proof.Laws.OpcodeField.setChannel (globalIndex value : Nat) :
    Sys2Proof.Laws.OpcodeField.Statement (.setChannel globalIndex value) :=
  Sys2Proof.fieldOp_pack _ _ _ _ _

theorem Sys2Proof.Laws.OpcodeField.setRgb (deviceIndex r g b : Nat) :
    Sys2Proof.Laws.OpcodeField.Statement (.setRgb deviceIndex r g b) :=
  Sys2Proof.fieldOp_pack _ _ _ _ _

theorem Sys2Proof.Laws.OpcodeField.getChannel (globalIndex : Nat) :
    Sys2Proof.Laws.OpcodeField.Statement (.getChannel globalIndex) :=
  Sys2Proof.fieldOp_pack _ _ _ _ _

theorem Sys2Proof.Laws.OpcodeField.write : Sys2Proof.Laws.OpcodeField.Statement .write :=
  Sys2Proof.fieldOp_pack _ _ _ _ _

theorem Sys2Proof.Laws.OpcodeField.destroy : Sys2Proof.Laws.OpcodeField.Statement .destroy :=
  Sys2Proof.fieldOp_pack _ _ _ _ _
end

