-- ==== Sys2Proof/Laws/Ports.lean ====
section
/-! SUPPORT. The byte stream of a transfer, one byte at a time. -/

namespace Sys2Proof.Machine

/-- The stream of a frame byte by byte: `tx_last` stands with a byte exactly when none follows (R57). -/
theorem txBytes_cons (b : Byte) (f : Frame) : txBytes (b :: f) = .tx b f.isEmpty :: txBytes f := by
  cases f <;> rfl

/-- With no byte left, none is taken (R57: "When `|bytes| = 0` no byte is offered"). -/
@[simp] theorem transferPort_empty (is : List TxInput) : (transferPort is []).1 = [] := by
  induction is with
  | nil => rfl
  | cons i is ih => cases i <;> simp [transferPort, ih]

end Sys2Proof.Machine
end

