-- ==== Sys2Proof/Laws/Sequencer.lean ====
section
/-! SUPPORT. The sequencer of WRITE: its transitions one by one, what any number of them keeps, and where it
settles. -/

namespace Sys2Proof.Machine

/-! One transition for each row of the table of R94. -/

theorem advance_idle {s : State} (h : s.phase = .idle) : s.advance = s := by simp [State.advance, h]

theorem advance_hold {s : State} (h : s.phase = .hold) : s.advance = s.holding := by simp [State.advance, h]

theorem advance_xfer_ok {s : State} {rest : List Answer} (h : s.phase = .xfer) (ha : s.answers = .ok :: rest) :
    s.advance = (s.takeAnswer rest).transferDone := by simp [State.advance, h, ha]

theorem advance_xfer_err {s : State} {e : Nat} {rest : List Answer} (h : s.phase = .xfer)
    (ha : s.answers = .err e :: rest) : s.advance = (s.takeAnswer rest).transferFailed e := by
  simp [State.advance, h, ha]

theorem advance_latHigh_ok {s : State} {rest : List Answer} (h : s.phase = .latHigh)
    (ha : s.answers = .ok :: rest) : s.advance = (s.takeAnswer rest).raised := by simp [State.advance, h, ha]

theorem advance_latHigh_err {s : State} {e : Nat} {rest : List Answer} (h : s.phase = .latHigh)
    (ha : s.answers = .err e :: rest) : s.advance = (s.takeAnswer rest).raiseFailed e := by
  simp [State.advance, h, ha]

theorem advance_latLow_ok {s : State} {rest : List Answer} (h : s.phase = .latLow)
    (ha : s.answers = .ok :: rest) : s.advance = (s.takeAnswer rest).lowered := by simp [State.advance, h, ha]

theorem advance_latLow_err {s : State} {e : Nat} {rest : List Answer} (h : s.phase = .latLow)
    (ha : s.answers = .err e :: rest) : s.advance = (s.takeAnswer rest).lowerFailed e := by
  simp [State.advance, h, ha]

theorem advance_waiting {s : State} (h : s.phase ≠ .hold) (ha : s.answers = []) : s.advance = s := by
  unfold State.advance
  cases hp : s.phase <;> simp_all

/-- The two things the hold timer does: it counts a period, or it has run out (R84, R108). -/
theorem holding_succ {s : State} {k : Nat} (h : s.hold = k + 1) : s.holding = { s with hold := k } := by
  simp [State.holding, h]

theorem holding_zero {s : State} (h : s.hold = 0) :
    s.holding = { s with phase := .latLow, trace := s.trace ++ [.held] ++ [.low] } := by
  simp [State.holding, h, State.emit]

/-- Everything one transition can do. -/
theorem advance_cases (s : State) :
    s.advance = s ∨
    (s.phase = .hold ∧ ∃ k, s.hold = k + 1 ∧ s.advance = { s with hold := k }) ∨
    (s.phase = .hold ∧ s.hold = 0 ∧
      s.advance = { s with phase := .latLow, trace := s.trace ++ [.held] ++ [.low] }) ∨
    (s.phase = .xfer ∧ ∃ rest, s.answers = .ok :: rest ∧ s.advance = (s.takeAnswer rest).transferDone) ∨
    (s.phase = .xfer ∧ ∃ e rest, s.answers = .err e :: rest ∧ s.advance = (s.takeAnswer rest).transferFailed e) ∨
    (s.phase = .latHigh ∧ ∃ rest, s.answers = .ok :: rest ∧ s.advance = (s.takeAnswer rest).raised) ∨
    (s.phase = .latHigh ∧ ∃ e rest, s.answers = .err e :: rest ∧ s.advance = (s.takeAnswer rest).raiseFailed e) ∨
    (s.phase = .latLow ∧ ∃ rest, s.answers = .ok :: rest ∧ s.advance = (s.takeAnswer rest).lowered) ∨
    (s.phase = .latLow ∧ ∃ e rest, s.answers = .err e :: rest ∧ s.advance = (s.takeAnswer rest).lowerFailed e) := by
  cases hp : s.phase with
  | idle => exact .inl (advance_idle hp)
  | hold =>
    cases hh : s.hold with
    | zero => exact .inr (.inr (.inl ⟨rfl, rfl, by rw [advance_hold hp, holding_zero hh, hh]⟩))
    | succ k => exact .inr (.inl ⟨rfl, k, rfl, by rw [advance_hold hp, holding_succ hh, hp]⟩)
  | xfer => rcases ha : s.answers with _ | ⟨_ | e, rest⟩ <;> simp [State.advance, hp, ha]
  | latHigh => rcases ha : s.answers with _ | ⟨_ | e, rest⟩ <;> simp [State.advance, hp, ha]
  | latLow => rcases ha : s.answers with _ | ⟨_ | e, rest⟩ <;> simp [State.advance, hp, ha]

/-! What every transition keeps. -/

/-- A property that each transition keeps is kept by any number of them. -/
theorem advanceBy_keeps {P : State → Prop} (h : ∀ s, P s → P s.advance) (n : Nat) :
    ∀ s, P s → P (State.advanceBy n s) := by
  induction n with
  | zero => exact fun _ hs => hs
  | succ n ih => exact fun s hs => ih s.advance (h s hs)

/-- A property that each transition keeps is kept until the sequencer settles. -/
theorem settle_keeps {P : State → Prop} (h : ∀ s, P s → P s.advance) {s : State} (hs : P s) : P s.settle :=
  advanceBy_keeps h _ s hs

/-- What the sequencer never touches: the configuration, the buffer, `life`, the host's script (R86, R87). -/
theorem advance_same (s : State) :
    s.advance.cfg = s.cfg ∧ s.advance.val = s.val ∧ s.advance.life = s.life ∧ s.advance.script = s.script := by
  rcases advance_cases s with h | ⟨_, k, _, h⟩ | ⟨_, _, h⟩ | ⟨_, r, _, h⟩ | ⟨_, e, r, _, h⟩ | ⟨_, r, _, h⟩ |
    ⟨_, e, r, _, h⟩ | ⟨_, r, _, h⟩ | ⟨_, e, r, _, h⟩ <;> simp [h]

theorem settle_same (s : State) :
    s.settle.cfg = s.cfg ∧ s.settle.val = s.val ∧ s.settle.life = s.life ∧ s.settle.script = s.script :=
  settle_keeps (P := fun t => t.cfg = s.cfg ∧ t.val = s.val ∧ t.life = s.life ∧ t.script = s.script)
    (fun t ht => by simpa [advance_same t] using ht) ⟨rfl, rfl, rfl, rfl⟩

@[simp] theorem settle_cfg (s : State) : s.settle.cfg = s.cfg := (settle_same s).1
@[simp] theorem settle_val (s : State) : s.settle.val = s.val := (settle_same s).2.1
@[simp] theorem settle_life (s : State) : s.settle.life = s.life := (settle_same s).2.2.1
@[simp] theorem settle_script (s : State) : s.settle.script = s.script := (settle_same s).2.2.2

/-! Where it settles. -/

/-- How many transitions are left at most. -/
def transitionsLeft (s : State) : Nat :=
  match s.phase with
  | .idle => 0
  | .latLow => 1
  | .hold => s.hold + 2
  | .latHigh => s.cfg.holdCycles + 3
  | .xfer => s.cfg.holdCycles + 4

theorem transitionsLeft_advance (s : State) :
    s.advance = s ∨ transitionsLeft s.advance + 1 ≤ transitionsLeft s := by
  rcases advance_cases s with h | ⟨hp, k, hk, h⟩ | ⟨hp, hk, h⟩ | ⟨hp, r, _, h⟩ | ⟨hp, e, r, _, h⟩ |
    ⟨hp, r, _, h⟩ | ⟨hp, e, r, _, h⟩ | ⟨hp, r, _, h⟩ | ⟨hp, e, r, _, h⟩
  · exact .inl h
  all_goals right; rw [h]; simp [transitionsLeft, *]

theorem advanceBy_fixed {s : State} (h : s.advance = s) (n : Nat) : State.advanceBy n s = s := by
  induction n with
  | zero => rfl
  | succ n ih => rw [State.advanceBy, h, ih]

theorem advanceBy_enough : ∀ (n : Nat) (s : State), transitionsLeft s ≤ n →
    (State.advanceBy n s).advance = State.advanceBy n s
  | n, s, hn => by
    rcases transitionsLeft_advance s with h | h
    · rw [advanceBy_fixed h, h]
    · match n with
      | 0 => omega
      | n + 1 => exact advanceBy_enough n s.advance (by omega)

theorem advanceBy_succ (n : Nat) (s : State) : State.advanceBy (n + 1) s = (State.advanceBy n s).advance := by
  induction n generalizing s with
  | zero => rfl
  | succ n ih => rw [State.advanceBy, ih, ← State.advanceBy]

theorem advanceBy_stable {m n : Nat} {s : State} (hm : transitionsLeft s ≤ m) (h : m ≤ n) :
    State.advanceBy n s = State.advanceBy m s := by
  induction n, h using Nat.le_induction with
  | base => rfl
  | succ k hk ih => rw [advanceBy_succ, advanceBy_enough k s (by omega), ih]

theorem transitionsLeft_le (s : State) : transitionsLeft s ≤ s.hold + s.cfg.holdCycles + 4 := by
  unfold transitionsLeft; split <;> omega

/-- Settling passes through the next transition. -/
theorem settle_advance (s : State) : s.settle = s.advance.settle := by
  rcases transitionsLeft_advance s with h | h
  · rw [h]
  · have e1 : s.settle = State.advanceBy (transitionsLeft s) s :=
      advanceBy_stable (le_refl _) (transitionsLeft_le s)
    have e2 : s.advance.settle = State.advanceBy (transitionsLeft s.advance) s.advance :=
      advanceBy_stable (le_refl _) (transitionsLeft_le s.advance)
    have e3 : State.advanceBy (transitionsLeft s.advance) s.advance
        = State.advanceBy (transitionsLeft s.advance + 1) s := rfl
    rw [e1, e2]
    obtain ⟨k, hk⟩ : ∃ k, transitionsLeft s = k + 1 := ⟨transitionsLeft s - 1, by omega⟩
    rw [hk, State.advanceBy]
    exact advanceBy_stable (le_refl _) (by omega)

theorem settle_fixed {s : State} (h : s.advance = s) : s.settle = s := advanceBy_fixed h _

theorem settle_idle {s : State} (h : s.phase = .idle) : s.settle = s := settle_fixed (advance_idle h)

theorem settle_waiting {s : State} (h : s.phase ≠ .hold) (ha : s.answers = []) : s.settle = s :=
  settle_fixed (advance_waiting h ha)

/-- The hold timer runs out, whatever it stands at. -/
theorem settle_hold {s : State} (h : s.phase = .hold) :
    s.settle = State.settle { s with hold := 0, phase := .latLow, trace := s.trace ++ [.held] ++ [.low] } := by
  generalize hk : s.hold = k
  induction k generalizing s with
  | zero => rw [settle_advance, advance_hold h, holding_zero hk, ← hk]
  | succ k ih =>
    rw [settle_advance, advance_hold h, holding_succ hk]
    exact ih h rfl

/-! Where a WRITE settles, answer by answer. -/

/-- The state when `set_high` was answered `Ok`, the hold time has passed and `set_low` is requested. -/
def State.pulsed (s : State) : State :=
  { s.raised with hold := 0, phase := .latLow, trace := s.trace ++ [.highAns .ok] ++ [.held] ++ [.low] }

@[simp] theorem State.pulsed_cfg (s : State) : s.pulsed.cfg = s.cfg := rfl
@[simp] theorem State.pulsed_val (s : State) : s.pulsed.val = s.val := rfl
@[simp] theorem State.pulsed_life (s : State) : s.pulsed.life = s.life := rfl
@[simp] theorem State.pulsed_lat (s : State) : s.pulsed.lat = .high := rfl
@[simp] theorem State.pulsed_phase (s : State) : s.pulsed.phase = .latLow := rfl
@[simp] theorem State.pulsed_hold (s : State) : s.pulsed.hold = 0 := rfl
@[simp] theorem State.pulsed_trace (s : State) : s.pulsed.trace = s.trace ++ [.highAns .ok] ++ [.held] ++ [.low] := rfl
@[simp] theorem State.pulsed_chain (s : State) : s.pulsed.chain =
    { s.chain with
      line := .high
      out := drawnOut s.draws s.chain.sr s.chain.out } := rfl
@[simp] theorem State.pulsed_draws (s : State) : s.pulsed.draws = s.draws + 1 := rfl
@[simp] theorem State.pulsed_answers (s : State) : s.pulsed.answers = s.answers := rfl
@[simp] theorem State.pulsed_script (s : State) : s.pulsed.script = s.script := rfl

theorem settle_xfer_ok {s : State} {rest : List Answer} (h : s.phase = .xfer) (ha : s.answers = .ok :: rest) :
    s.settle = (s.takeAnswer rest).transferDone.settle := by
  rw [settle_advance, advance_xfer_ok h ha]

theorem settle_xfer_err {s : State} {e : Nat} {rest : List Answer} (h : s.phase = .xfer)
    (ha : s.answers = .err e :: rest) : s.settle = (s.takeAnswer rest).transferFailed e := by
  rw [settle_advance, advance_xfer_err h ha, settle_idle (by simp)]

theorem settle_latHigh_ok {s : State} {rest : List Answer} (h : s.phase = .latHigh)
    (ha : s.answers = .ok :: rest) : s.settle = (s.takeAnswer rest).pulsed.settle := by
  rw [settle_advance, advance_latHigh_ok h ha, settle_hold (by simp)]
  rfl

theorem settle_latHigh_err {s : State} {e : Nat} {rest : List Answer} (h : s.phase = .latHigh)
    (ha : s.answers = .err e :: rest) : s.settle = (s.takeAnswer rest).raiseFailed e := by
  rw [settle_advance, advance_latHigh_err h ha, settle_idle (by simp)]

theorem settle_latLow_ok {s : State} {rest : List Answer} (h : s.phase = .latLow)
    (ha : s.answers = .ok :: rest) : s.settle = (s.takeAnswer rest).lowered := by
  rw [settle_advance, advance_latLow_ok h ha, settle_idle (by simp)]

theorem settle_latLow_err {s : State} {e : Nat} {rest : List Answer} (h : s.phase = .latLow)
    (ha : s.answers = .err e :: rest) : s.settle = (s.takeAnswer rest).lowerFailed e := by
  rw [settle_advance, advance_latLow_err h ha, settle_idle (by simp)]

/-- Everything a WRITE can do after its prologue: the three places where it waits and the four ways it ends. -/
theorem writeBody_cases (s : State) :
    (s.answers = [] ∧ writeBody s = s.requestTransfer) ∨
    (s.answers = [.ok] ∧ writeBody s = (s.requestTransfer.takeAnswer []).transferDone) ∨
    (s.answers = [.ok, .ok] ∧
      writeBody s = ((s.requestTransfer.takeAnswer [.ok]).transferDone.takeAnswer []).pulsed) ∨
    (∃ e rest, s.answers = .err e :: rest ∧
      writeBody s = (s.requestTransfer.takeAnswer rest).transferFailed e) ∨
    (∃ e rest, s.answers = .ok :: .err e :: rest ∧
      writeBody s = ((s.requestTransfer.takeAnswer (.err e :: rest)).transferDone.takeAnswer rest).raiseFailed e) ∨
    (∃ e rest, s.answers = .ok :: .ok :: .err e :: rest ∧
      writeBody s = ((((s.requestTransfer.takeAnswer (.ok :: .err e :: rest)).transferDone.takeAnswer
        (.err e :: rest)).pulsed).takeAnswer rest).lowerFailed e) ∨
    (∃ rest, s.answers = .ok :: .ok :: .ok :: rest ∧
      writeBody s = ((((s.requestTransfer.takeAnswer (.ok :: .ok :: rest)).transferDone.takeAnswer
        (.ok :: rest)).pulsed).takeAnswer rest).lowered) := by
  unfold writeBody
  match ha : s.answers with
  | [] => exact .inl ⟨rfl, settle_waiting (by simp) (by simp [ha])⟩
  | [.ok] =>
    refine .inr (.inl ⟨rfl, ?_⟩)
    rw [settle_xfer_ok (rest := []) (by simp) (by simp [ha]), settle_waiting (by simp) (by simp)]
  | [.ok, .ok] =>
    refine .inr (.inr (.inl ⟨rfl, ?_⟩))
    rw [settle_xfer_ok (rest := [.ok]) (by simp) (by simp [ha]), settle_latHigh_ok (rest := []) (by simp) (by simp),
      settle_waiting (by simp) (by simp)]
  | .err e :: rest =>
    exact .inr (.inr (.inr (.inl ⟨e, rest, rfl, settle_xfer_err (by simp) (by simp [ha])⟩)))
  | .ok :: .err e :: rest =>
    refine .inr (.inr (.inr (.inr (.inl ⟨e, rest, rfl, ?_⟩))))
    rw [settle_xfer_ok (rest := .err e :: rest) (by simp) (by simp [ha]),
      settle_latHigh_err (e := e) (rest := rest) (by simp) (by simp)]
  | .ok :: .ok :: .err e :: rest =>
    refine .inr (.inr (.inr (.inr (.inr (.inl ⟨e, rest, rfl, ?_⟩)))))
    rw [settle_xfer_ok (rest := .ok :: .err e :: rest) (by simp) (by simp [ha]),
      settle_latHigh_ok (rest := .err e :: rest) (by simp) (by simp),
      settle_latLow_err (e := e) (rest := rest) (by simp) (by simp)]
  | .ok :: .ok :: .ok :: rest =>
    refine .inr (.inr (.inr (.inr (.inr (.inr ⟨rest, rfl, ?_⟩)))))
    rw [settle_xfer_ok (rest := .ok :: .ok :: rest) (by simp) (by simp [ha]),
      settle_latHigh_ok (rest := .ok :: rest) (by simp) (by simp),
      settle_latLow_ok (rest := rest) (by simp) (by simp)]

end Sys2Proof.Machine
end

