-- ==== Sys2Proof/Laws/Serializer.lean ====
section
/-! SUPPORT. The serializer: lengths of its parts, and how its bit strings, bytes and blocks are read bit by
bit. -/

namespace Sys2Proof.Machine

/-! Lists made of parts of one length. -/

theorem flatMap_length {α β : Type} {f : α → List β} {m : Nat} (hf : ∀ a, (f a).length = m) (l : List α) :
    (l.flatMap f).length = l.length * m := by
  induction l with
  | nil => simp
  | cons a t ih => simp [hf, ih, Nat.succ_mul, Nat.add_comm]

/-- Element `p` of parts of length `m` is element `p mod m` of part `p div m`. -/
theorem flatMap_getD {α β : Type} {f : α → List β} {m : Nat} (hf : ∀ a, (f a).length = m) (a0 : α) (z : β)
    (l : List α) : ∀ p, p < l.length * m →
      (l.flatMap f).getD p z = (f (l.getD (p / m) a0)).getD (p % m) z := by
  induction l with
  | nil => intro p hp; simp at hp
  | cons a t ih =>
    intro p hp
    have hm : 0 < m := Nat.pos_of_ne_zero fun h => by simp [h] at hp
    rw [List.flatMap_cons]
    by_cases h : p < m
    · rw [List.getD_append _ _ _ _ (by rw [hf]; exact h), Nat.div_eq_of_lt h, Nat.mod_eq_of_lt h]
      rfl
    · have hle : m ≤ p := Nat.le_of_not_lt h
      rw [List.getD_append_right _ _ _ _ (by rw [hf]; exact hle), hf,
        ih (p - m) (by simp only [List.length_cons, Nat.succ_mul] at hp; omega)]
      have e1 : p / m = (p - m) / m + 1 := by rw [Nat.div_eq_sub_div hm hle]
      rw [e1, List.getD_cons_succ, Nat.mod_eq_sub_mod hle]

/-! Bits of a value. -/

@[simp] theorem bitsMsbFirst_length (b : Nat) (v : Value) : (bitsMsbFirst b v).length = b := by
  simp [bitsMsbFirst]

theorem bitsMsbFirst_getD {b j : Nat} (h : j < b) (v : Value) :
    (bitsMsbFirst b v).getD j false = v.getLsbD (b - 1 - j) := by
  simp [bitsMsbFirst, List.getD_eq_getElem?_getD, h]

/-! Bits of a byte. -/

theorem packByte_bit (b7 b6 b5 b4 b3 b2 b1 b0 : Bool) {r : Nat} (h : r < 8) :
    (packByte b7 b6 b5 b4 b3 b2 b1 b0).getLsbD (7 - r) = [b7, b6, b5, b4, b3, b2, b1, b0].getD r false := by
  interval_cases r <;> simp only [packByte, BitVec.getLsbD_append, BitVec.getLsbD_ofBool] <;> simp

/-! Bits of a frame (R66: bit `p` is bit `7 - p mod 8` of byte `p div 8`). -/

theorem lineBit_nil (p : Nat) : lineBit [] p = false := by simp [lineBit]

theorem lineBit_append (f g : Frame) (p : Nat) :
    lineBit (f ++ g) p = if p < 8 * f.length then lineBit f p else lineBit g (p - 8 * f.length) := by
  unfold lineBit
  split
  · next h => rw [List.getD_append _ _ _ _ (by omega)]
  · next h =>
    rw [List.getD_append_right _ _ _ _ (by omega)]
    have e1 : (p - 8 * f.length) / 8 = p / 8 - f.length := by omega
    have e2 : (p - 8 * f.length) % 8 = p % 8 := by omega
    rw [e1, e2]

/-- Bit `p` of chip blocks of `m` bytes each. -/
theorem lineBit_flatMap {α : Type} {f : α → Frame} {m : Nat} (hf : ∀ a, (f a).length = m) (a0 : α) (l : List α)
    (p : Nat) (hp : p < 8 * (l.length * m)) :
    lineBit (l.flatMap f) p = lineBit (f (l.getD (p / (8 * m)) a0)) (p % (8 * m)) := by
  have hq : p / 8 < l.length * m := by omega
  unfold lineBit
  rw [flatMap_getD hf a0 _ l (p / 8) hq, Nat.div_div_eq_div_mul, Nat.mod_mul]
  have h8 : (p % 8 + 8 * (p / 8 % m)) / 8 = p / 8 % m := by omega
  have h9 : (p % 8 + 8 * (p / 8 % m)) % 8 = p % 8 := by omega
  rw [h8, h9]

theorem bytesOfBits_length : ∀ s : List Bool, (bytesOfBits s).length = s.length / 8
  | [] | [_] | [_, _] | [_, _, _] | [_, _, _, _] | [_, _, _, _, _] | [_, _, _, _, _, _] | [_, _, _, _, _, _, _] => by
    simp [bytesOfBits]
  | _ :: _ :: _ :: _ :: _ :: _ :: _ :: _ :: rest => by
    simp [bytesOfBits, bytesOfBits_length rest]
    omega

/-- The bytes of a bit string hold it, bit for bit. -/
theorem lineBit_bytesOfBits : ∀ (s : List Bool) (p : Nat), p < 8 * (s.length / 8) →
    lineBit (bytesOfBits s) p = s.getD p false
  | [], p, h | [_], p, h | [_, _], p, h | [_, _, _], p, h | [_, _, _, _], p, h | [_, _, _, _, _], p, h
  | [_, _, _, _, _, _], p, h | [_, _, _, _, _, _, _], p, h => by
    simp at h
  | b7 :: b6 :: b5 :: b4 :: b3 :: b2 :: b1 :: b0 :: rest, p, h => by
    rw [bytesOfBits, show packByte b7 b6 b5 b4 b3 b2 b1 b0 :: bytesOfBits rest
      = [packByte b7 b6 b5 b4 b3 b2 b1 b0] ++ bytesOfBits rest from rfl, lineBit_append]
    by_cases hp : p < 8
    · rw [if_pos (by simpa using hp), lineBit, Nat.div_eq_of_lt hp, Nat.mod_eq_of_lt hp]
      simp only [List.getD_cons_zero, packByte_bit _ _ _ _ _ _ _ _ hp]
      interval_cases p <;> rfl
    · have h2 : p - 8 < 8 * (rest.length / 8) := by
        simp only [List.length_cons] at h; omega
      rw [if_neg (by simpa using hp)]
      simp only [List.length_singleton, Nat.mul_one]
      rw [lineBit_bytesOfBits rest (p - 8) h2]
      obtain ⟨q, rfl⟩ : ∃ q, p = q + 8 := ⟨p - 8, by omega⟩
      rfl

/-! One chip. -/

theorem channels_mul_bits (cfg : Config) : cfg.channels * cfg.bits = 8 * cfg.dataBytes := by
  unfold Config.dataBytes Config.bits Config.channels
  cases cfg.variant <;> rfl

theorem bits_pos (cfg : Config) : 0 < cfg.bits := by unfold Config.bits; split <;> decide

theorem channels_pos (cfg : Config) : 0 < cfg.channels := by unfold Config.channels; split <;> decide

@[simp] theorem chipBits_length (cfg : Config) (val : List Value) (d : Nat) :
    (chipBits cfg val d).length = 8 * cfg.dataBytes := by
  rw [chipBits, flatMap_length (m := cfg.bits) (fun _ => bitsMsbFirst_length _ _), List.length_range,
    channels_mul_bits]

@[simp] theorem chipBlock_length (cfg : Config) (val : List Value) (d : Nat) :
    (chipBlock cfg val d).length = cfg.blockBytes := by
  rw [chipBlock, List.length_append, bytesOfBits_length, chipBits_length]
  simp [Config.blockBytes, Config.hdrBytes]

/-- Bit `r` of a chip's channel data is bit `B - 1 - r mod B` of local channel `r div B`. -/
theorem chipBits_getD (cfg : Config) (val : List Value) (d : Nat) {r : Nat} (h : r < 8 * cfg.dataBytes) :
    (chipBits cfg val d).getD r false =
      (entry val (globalIndex cfg d (r / cfg.bits))).getLsbD (cfg.bits - 1 - r % cfg.bits) := by
  have hr : r < cfg.channels * cfg.bits := by rw [channels_mul_bits]; exact h
  have hq : r / cfg.bits < cfg.channels := Nat.div_lt_of_lt_mul (by rwa [Nat.mul_comm] at hr)
  rw [chipBits, flatMap_getD (m := cfg.bits) (fun _ => bitsMsbFirst_length _ _) 0 _ _ r
    (by rwa [List.length_range]), bitsMsbFirst_getD (Nat.mod_lt _ (bits_pos cfg))]
  simp [List.getD_eq_getElem?_getD, hq]

/-- A chip block bit by bit: the control word, then the values (the two forms of R66 on one block). -/
theorem lineBit_chipBlock (cfg : Config) (val : List Value) (d : Nat) {q : Nat} (hq : q < 8 * cfg.blockBytes) :
    lineBit (chipBlock cfg val d) q =
      if q < 8 * cfg.hdrBytes then (cfg.hdr.getD (q / 8) 0).getLsbD (7 - q % 8)
      else (entry val (globalIndex cfg d ((q - 8 * cfg.hdrBytes) / cfg.bits))).getLsbD
        (cfg.bits - 1 - (q - 8 * cfg.hdrBytes) % cfg.bits) := by
  have e : cfg.blockBytes = cfg.hdrBytes + cfg.dataBytes := rfl
  rw [chipBlock, lineBit_append]
  show (if q < 8 * cfg.hdrBytes then _ else lineBit _ (q - 8 * cfg.hdrBytes)) = _
  split
  · rfl
  · rw [lineBit_bytesOfBits _ _ (by rw [chipBits_length]; omega), chipBits_getD _ _ _ (by omega)]

/-- Frames of one length with the same bits are equal. -/
theorem lineBit_ext {f g : Frame} (hl : f.length = g.length)
    (h : ∀ p, p < 8 * f.length → lineBit f p = lineBit g p) : f = g := by
  apply List.ext_getElem hl
  intro i h1 h2
  apply BitVec.eq_of_getLsbD_eq
  intro k hk
  have := h (8 * i + (7 - k)) (by omega)
  unfold lineBit at this
  rw [show (8 * i + (7 - k)) / 8 = i by omega, show 7 - (8 * i + (7 - k)) % 8 = k by omega] at this
  simpa [List.getD_eq_getElem?_getD, h1, h2] using this

/-! Entries and indices. -/

theorem entry_set (val : List Value) (i j : Nat) (x : Value) :
    entry (val.set i x) j = if j = i ∧ i < val.length then x else entry val j := by
  unfold entry
  simp only [List.getD_eq_getElem?_getD, List.getElem?_set]
  by_cases h : i = j
  · subst h; by_cases h2 : i < val.length <;> simp [h2]
  · simp [h, Ne.symm h]

/-- The index map is injective on local channels (R31). -/
theorem globalIndex_inj {cfg : Config} {d c d' c' : Nat} (hc : c < cfg.channels) (hc' : c' < cfg.channels)
    (h : globalIndex cfg d c = globalIndex cfg d' c') : d = d' ∧ c = c' := by
  have hC := channels_pos cfg
  unfold globalIndex at h
  rw [Nat.mul_comm d, Nat.mul_comm d'] at h
  constructor
  · have := congrArg (· / cfg.channels) h
    simpa [Nat.mul_add_div hC, Nat.div_eq_of_lt hc, Nat.div_eq_of_lt hc'] using this
  · have := congrArg (· % cfg.channels) h
    simpa [Nat.mul_add_mod, Nat.mod_eq_of_lt hc, Nat.mod_eq_of_lt hc'] using this

end Sys2Proof.Machine
end

