-- ==== Sys2Proof/Laws/Step.lean ====
section
/-! SUPPORT. What a step can do, once: the inversion lemmas of `exec`, `resume` and `step`. -/

namespace Sys2Proof.Machine

/-- The own pseudocode of each command, after the prologue. -/
def bodyOf : Instr → State → State
  | .setChannel i v => setChannelBody i v
  | .setRgb d r g b => setRgbBody d r g b
  | .getChannel i => getChannelBody i
  | .write => writeBody
  | .destroy => destroyBody

/-- Every meaning is the prologue around the command's own pseudocode (R59). -/
theorem exec_eq_command (i : Instr) (s : State) : exec i s = command s (bodyOf i) := by
  cases i <;> rfl

/-- Everything `exec` can do. -/
theorem exec_cases {i : Instr} {s t : State} (h : exec i s = .next t) :
    s.cfg.ok = true ∧
      ((s.phase ≠ .idle ∧ t = s) ∨ (s.phase = .idle ∧ s.life = .destroyed ∧ t = s.raise .destroyed 0) ∨
        (s.phase = .idle ∧ s.life = .live ∧ t = bodyOf i s)) :=
  command_cases (exec_eq_command i s ▸ h)

/-- A ready block runs the command's own pseudocode. -/
theorem exec_of_ready {s : State} (h : Ready s) (i : Instr) : exec i s = .next (bodyOf i s) := by
  rw [exec_eq_command, command_of_ready h]

/-- A command never faults, and is refused only for its configuration. -/
theorem exec_of_ok {s : State} (h : s.cfg.ok = true) (i : Instr) : ∃ t, exec i s = .next t := by
  rw [exec_eq_command]
  by_cases hp : s.phase = .idle
  · cases hl : s.life with
    | live => exact ⟨_, command_of_ready ⟨h, hp, hl⟩ _⟩
    | destroyed => exact ⟨_, command_of_destroyed h hp hl _⟩
  · exact ⟨_, command_of_busy h hp _⟩

/-- Everything a busy block can do: be reset, wait, or run its sequencer on. -/
theorem resume_cases (s : State) :
    (∃ b rest, s.script = .reset b :: rest ∧ s.resume = { s with script := rest }.doReset b) ∨
      ((∀ b rest, s.script ≠ .reset b :: rest) ∧
        ((s.answers = [] ∧ s.phase ≠ .hold ∧ s.resume = s.wait) ∨
          ((s.answers ≠ [] ∨ s.phase = .hold) ∧ s.resume = s.settle))) := by
  unfold State.resume
  split
  · next b rest hs => exact .inl ⟨b, rest, hs, rfl⟩
  · next hs =>
    right
    refine ⟨fun b rest h => hs b rest h, ?_⟩
    split
    · next ha hp => exact .inr ⟨.inr hp, rfl⟩
    · next ha hp => exact .inl ⟨ha, hp, rfl⟩
    · next ha => exact .inr ⟨.inl (by simp [ha]), rfl⟩

/-- Everything a step can do. -/
theorem step_cases {s t : State} (h : step s = .next t) :
    s.cfg.ok = true ∧
      ((s.phase ≠ .idle ∧ t = s.resume) ∨
        (s.phase = .idle ∧
          ((s.script = [] ∧ t = s) ∨
            (∃ b rest, s.script = .reset b :: rest ∧ t = { s with script := rest }.doReset b) ∨
            (∃ rest, s.script = .otherBusUse :: rest ∧ t = { s with script := rest }.busShared) ∨
            (∃ w as rest, s.script = .command w as :: rest ∧
              ((∃ i, decode w = .ok i ∧ exec i (s.accept w as rest) = .next t) ∨
                (∃ e, decode w = .error e ∧ t = (s.accept w as rest).raise .illegalCommand 0)))))) := by
  unfold step at h
  split at h
  case isFalse => cases h
  next hc =>
  refine ⟨hc, ?_⟩
  split at h
  case isFalse hp => cases h; exact .inl ⟨hp, rfl⟩
  next hp =>
  refine .inr ⟨hp, ?_⟩
  split at h
  · next hs => cases h; exact .inl ⟨hs, rfl⟩
  · next b rest hs => cases h; exact .inr (.inl ⟨b, rest, hs, rfl⟩)
  · next rest hs => cases h; exact .inr (.inr (.inl ⟨rest, hs, rfl⟩))
  · next w as rest hs =>
    refine .inr (.inr (.inr ⟨w, as, rest, hs, ?_⟩))
    split at h
    · next i hd => exact .inl ⟨i, hd, h⟩
    · next e hd => cases h; exact .inr ⟨e, hd, rfl⟩

/-- A run goes on from the next state. -/
theorem core_run_succ (k : Nat) {s t : State} (h : step s = .next t) :
    Sys2Proof.core.run (k + 1) s = Sys2Proof.core.run k t := by
  have h' : Sys2Proof.core.step s = .next t := h
  simp only [Host.Core.run, h']

end Sys2Proof.Machine
end

