-- ==== Sys2Proof/Tests/Slice0.lean ====
section
/-! SUPPORT. The model's own tests. Expected results are the vectors of spec/95_test_vectors.md (named in each
comment) or words written out from 30_encoding.md R46, R47. The theorems `witness_<Obligation>` show that the
hypotheses of a statement can be met, clause by clause. -/

namespace Sys2Proof.Tests

open Sys2Proof Sys2Proof.Machine

/-! Small configurations and states. -/

/-- Twelve bits, `n` chips, the default offsets. -/
def cfg12 (n : Nat) : Config := { Config.initial with n := n }

/-- Sixteen bits, `n` chips, the control word `hdr`. -/
def cfg16 (n : Nat) (hdr : List Byte) : Config :=
  { Config.initial with variant := .sixteenBit12Channel, n := n, hdr := hdr }

/-- A block after reset, with the collaborators' answers to the next command. -/
def fresh (c : Config) (as : List Answer) : State := { State.resetOf c with answers := as }

/-- A block after reset to which the host presents one word. -/
def given (c : Config) (w : CmdWord) (as : List Answer) : State :=
  { State.resetOf c with script := [.command w as] }

/-- A destroyed block. -/
def gone (c : Config) : State := { State.resetOf c with life := .destroyed }

/-- A WRITE of a small block in the phase `p`, with the answers still to come. -/
def writing (p : Phase) (as : List Answer) : State :=
  { State.resetOf (cfg12 0) with phase := p, answers := as }

/-- The buffer of `n` entries in which the listed ones are not 0. -/
def buffer (n : Nat) (l : List (Nat × Value)) : List Value :=
  l.foldl (fun v e => v.set e.1 e.2) (List.replicate n 0)

/-- The frame bytes at the listed offsets. -/
def bytesAt (f : Frame) (l : List Nat) : List Byte := l.map fun i => f.getD i 0

/-- The next state of an outcome, if it is one. -/
def after (o : Host.Outcome State Fault Refusal) : Option State :=
  match o with
  | .next t => some t
  | .fault _ => none
  | .refused _ => none

/-- The trace that an outcome leaves. -/
def traceOf (o : Host.Outcome State Fault Refusal) : List Event := ((after o).map (·.trace)).getD []

/-- Two steps. -/
def step2 (s : State) : Host.Outcome State Fault Refusal :=
  match step s with
  | .next t => step t
  | .fault r => .fault r
  | .refused r => .refused r

/-! WellFormed: one ill-formed term for each check, beside the largest well-formed one (R48). -/

theorem test_wf_setChannel :
    (Instr.setChannel 16777215 65535).wf = true ∧ (Instr.setChannel 16777216 0).wf = false ∧
      (Instr.setChannel 0 65536).wf = false := by decide

theorem test_wf_setRgb :
    (Instr.setRgb 16777215 65535 65535 65535).wf = true ∧ (Instr.setRgb 16777216 0 0 0).wf = false ∧
      (Instr.setRgb 0 65536 0 0).wf = false ∧ (Instr.setRgb 0 0 65536 0).wf = false ∧
      (Instr.setRgb 0 0 0 65536).wf = false := by decide

theorem test_wf_getChannel :
    (Instr.getChannel 16777215).wf = true ∧ (Instr.getChannel 16777216).wf = false := by decide

theorem test_wf_plain : Instr.write.wf = true ∧ Instr.destroy.wf = true := by decide

/-! Decoding: words written out from R46 and R47, and the vectors E-1 to E-16. -/

theorem test_decode_setChannel :
    decode (0b00000001#8 ++ 0b000000000000000000011000#24 ++ 0b0000111111111111#16 ++ 0#16 ++ 0#16)
      = .ok (.setChannel 24 4095) := by decide

theorem test_decode_setRgb :
    decode (0b00000010#8 ++ 0b000000000000000000000001#24 ++ 0b1111111111111111#16 ++ 0b0001000000000000#16
      ++ 0b0000111111111111#16) = .ok (.setRgb 1 65535 4096 4095) := by decide

theorem test_decode_getChannel :
    decode (0b00000011#8 ++ 0b000000000000000000010111#24 ++ 0#16 ++ 0#16 ++ 0#16) = .ok (.getChannel 23) := by
  decide

theorem test_decode_write : decode (0b00000100#8 ++ 0#24 ++ 0#16 ++ 0#16 ++ 0#16) = .ok .write := by decide

theorem test_decode_destroy : decode (0b00000101#8 ++ 0#24 ++ 0#16 ++ 0#16 ++ 0#16) = .ok .destroy := by decide

/-- The same words as the encoder writes them (R46). -/
theorem test_encode :
    encode (.setChannel 24 4095) = 0x010000180FFF00000000 ∧
    encode (.setRgb 1 65535 4096 4095) = 0x02000001FFFF10000FFF ∧
    encode (.getChannel 23) = 0x03000017000000000000 ∧ encode .write = 0x04000000000000000000 ∧
    encode .destroy = 0x05000000000000000000 := by decide

/-- As ten bytes, most significant first (R46); nine are too few. -/
theorem test_decode_bytes :
    decodeBytes [0x01, 0, 0, 0x18, 0x0F, 0xFF, 0, 0, 0, 0, 0xAA] = .ok (.setChannel 24 4095, [0xAA]) ∧
    decodeBytes [0x04, 0, 0, 0, 0, 0, 0, 0, 0] = .error .truncated := by decide

/-- One word for each row of the opcode table, as that table numbers its bits. -/
theorem test_table_words :
    decodeTableWord 80 0x01000000000000000000 = some (.setChannel 0 0) ∧
    decodeTableWord 80 0x02000003000500070009 = some (.setRgb 3 5 7 9) ∧
    decodeTableWord 80 0x03000000000000000000 = some (.getChannel 0) ∧
    decodeTableWord 80 0x04000000000000000000 = some .write ∧
    decodeTableWord 80 0x05000000000000000000 = some .destroy ∧ decodeTableWord 80 0 = none := by decide

/-- The word presented is the one the next step runs. -/
theorem test_fetch :
    traceOf (step (State.reset.withFetchWord 80 0x01000000138800000000))
      = [.cmd 0x01000000138800000000, .rsp .ok 0 0] ∧
    traceOf (step (State.reset.withFetchWord 80 0x05000000000000000000))
      = [.cmd 0x05000000000000000000, .own0, .rsp .ok 0 0] := by decide

/-! The buffer commands (B-1 to B-22). -/

/-- B-1 and B-10. -/
theorem test_setChannel :
    (after (exec (.setChannel 0 5000) (fresh (cfg12 1) []))).map (fun t => (t.val.getD 0 0, t.trace))
      = some (904, [.rsp .ok 0 0]) ∧
    (after (exec (.setChannel 24 1) (fresh (cfg12 1) []))).map (fun t => (t.val, t.trace))
      = some (List.replicate 24 0, [.rsp .indexOutOfRange 0 0]) := by decide

/-- B-8 and B-12: sixteen bits; over naturals, a value wider than the port. -/
theorem test_setChannel_sixteen :
    (after (exec (.setChannel 0 70000) (fresh (cfg16 1 []) []))).map (·.val.getD 0 0) = some 4464 ∧
    traceOf (exec (.setChannel 24 1) (fresh (cfg16 2 []) [])) = [.rsp .indexOutOfRange 0 0] := by decide

/-- B-14 and B-15. -/
theorem test_setRgb :
    (after (exec (.setRgb 1 65535 4096 4095) (fresh (cfg12 2) []))).map
        (fun t => (t.val.getD 24 0, t.val.getD 25 0, t.val.getD 26 0, t.trace))
      = some (4095, 0, 4095, [.rsp .ok 0 0]) ∧
    (after (exec (.setRgb 2 1 2 3) (fresh (cfg12 2) []))).map (fun t => (t.val, t.trace))
      = some (List.replicate 48 0, [.rsp .indexOutOfRange 0 0]) := by decide

/-- B-17 and B-18: other offsets; of equal ones the later write wins. -/
theorem test_setRgb_offsets :
    (after (exec (.setRgb 0 7 8 9) (fresh { cfg12 1 with rgbOff := ⟨21, 22, 23⟩ } []))).map
        (fun t => t.val.drop 20) = some [0, 7, 8, 9] ∧
    (after (exec (.setRgb 0 7 8 9) (fresh { cfg12 1 with rgbOff := ⟨5, 5, 5⟩ } []))).map
        (fun t => t.val.getD 5 0) = some 9 := by decide

/-- B-20 and B-21. -/
theorem test_getChannel :
    traceOf (exec (.getChannel 0) { fresh (cfg12 1) [] with val := buffer 24 [(0, 904)] }) = [.rsp .ok 0 904] ∧
    traceOf (exec (.getChannel 24) (fresh (cfg12 1) [])) = [.rsp .indexOutOfRange 0 0] := by decide

/-- B-13 and B-22: the empty chain has no entry. -/
theorem test_empty_chain :
    traceOf (exec (.setChannel 0 1) (fresh (cfg12 0) [])) = [.rsp .indexOutOfRange 0 0] ∧
    traceOf (exec (.setRgb 0 1 2 3) (fresh (cfg16 0 []) [])) = [.rsp .indexOutOfRange 0 0] := by decide

/-! The serializer (T12-*, T16-*). -/

/-- T12-3, T12-4, T12-7. -/
theorem test_serialize_twelve :
    serialize (cfg12 1) (buffer 24 [(0, 0xABC), (1, 0xDEF)]) = [0xAB, 0xCD, 0xEF] ++ List.replicate 33 0 ∧
    (serialize (cfg12 1) (buffer 24 [(0, 1), (1, 0x800)])).take 3 = [0x00, 0x18, 0x00] ∧
    (serialize (cfg12 1) (buffer 24 [(22, 0x123), (23, 0x456)])).drop 33 = [0x12, 0x34, 0x56] := by decide

/-- T12-8, T12-9, T12-14. -/
theorem test_serialize_order :
    serialize (cfg12 2) (buffer 48 [(24, 0xFFF)]) = [0xFF, 0xF0] ++ List.replicate 70 0 ∧
    serialize (cfg12 2) (buffer 48 [(0, 1)]) = List.replicate 36 0 ++ [0x00, 0x10, 0x00] ++ List.replicate 33 0 ∧
    serialize (cfg12 0) [] = [] := by decide

/-- T16-4 and T16-6: the control word at the head of every chip block. -/
theorem test_serialize_sixteen :
    serialize (cfg16 1 [0xA0, 0xA1, 0xA2, 0xA3]) (buffer 12 [(0, 0x1234), (11, 0xABCD)])
      = [0xA0, 0xA1, 0xA2, 0xA3, 0x12, 0x34] ++ List.replicate 20 0 ++ [0xAB, 0xCD] ∧
    serialize (cfg16 2 [0xC1, 0xC2]) (buffer 24 [(12, 0xBEEF), (0, 1), (23, 0x8000)])
      = [0xC1, 0xC2, 0xBE, 0xEF] ++ List.replicate 20 0 ++ [0x80, 0x00, 0xC1, 0xC2, 0x00, 0x01]
          ++ List.replicate 22 0 := by decide

/-- T12-4 bit by bit, as the spec's own check of it. -/
theorem test_frameBit :
    (List.range 24).map (frameBit (cfg12 1) (buffer 24 [(0, 1), (1, 0x800)]))
      = List.replicate 11 false ++ [true, true] ++ List.replicate 11 false := by decide

/-! WRITE (W-1 to W-4) on the empty chain, whose frame is empty (S2, P4), and the frame of P1. -/

/-- W-1 and W-2. -/
theorem test_write_ok_and_transfer_failed :
    (after (exec .write (fresh (cfg12 0) [.ok, .ok, .ok]))).map (fun t => (t.trace, t.lat, t.phase))
      = some ([.xfer [], .xferAns .ok, .high, .highAns .ok, .held, .low, .lowAns .ok, .rsp .ok 0 0], .low, .idle) ∧
    (after (exec .write (fresh (cfg12 0) [.err 0x11]))).map (fun t => (t.trace, t.lat, t.phase))
      = some ([.xfer [], .xferAns (.err 0x11), .rsp .transferFailed 0x11 0], .low, .idle) := by decide

/-- W-3 and W-4. -/
theorem test_write_latch_failed :
    (after (exec .write (fresh (cfg12 0) [.ok, .err 0x22]))).map (fun t => (t.trace, t.lat, t.phase))
      = some ([.xfer [], .xferAns .ok, .high, .highAns (.err 0x22), .rsp .latchFailed 0x22 0], .unknown, .idle) ∧
    (after (exec .write (fresh (cfg12 0) [.ok, .ok, .err 0x33]))).map (fun t => (t.trace, t.lat, t.phase))
      = some ([.xfer [], .xferAns .ok, .high, .highAns .ok, .held, .low, .lowAns (.err 0x33),
          .rsp .latchFailed 0x33 0], .unknown, .idle) := by decide

/-- P1: the frame of the buffer 904, 100, 4000. -/
theorem test_write_frame :
    serialize (cfg12 1) (buffer 24 [(0, 904), (1, 100), (2, 4000)])
      = [0x38, 0x80, 0x64, 0xFA] ++ List.replicate 32 0 := by decide

/-! DESTROY and the guard (X-1 to X-7). -/

/-- X-1 and X-2. -/
theorem test_destroy :
    (after (exec .destroy (fresh (cfg12 1) []))).map (fun t => (t.life, t.ownBus, t.ownPin, t.trace))
      = some (.destroyed, false, false, [.own0, .rsp .ok 0 0]) ∧
    (after (exec (.setChannel 0 1) (gone (cfg12 1)))).map (fun t => (t.val.getD 0 0, t.trace))
      = some (0, [.rsp .destroyed 0 0]) := by decide

/-- X-5 and X-6: the order of the checks. -/
theorem test_destroyed_checks :
    traceOf (step { gone (cfg12 1) with script := [.command 0x06000000000000000000 []] })
      = [.cmd 0x06000000000000000000, .rsp .illegalCommand 0 0] ∧
    traceOf (exec (.setChannel 24 1) (gone (cfg12 1))) = [.rsp .destroyed 0 0] := by decide

/-- X-7: a reset makes the block live again. -/
theorem test_reset_after_destroy :
    (after (step2 { gone (cfg12 1) with script := [.reset true, .command 0x03000000000000000000 []] })).map
        (fun t => (t.life, t.trace))
      = some (.live, [.cmd 0x03000000000000000000, .rsp .ok 0 0]) := by decide

/-- E-12 as a step: a WRITE with `c` not 0 is illegal and requests nothing. -/
theorem test_illegal_step :
    traceOf (step (given (cfg12 1) 0x04000000000000000001 [.ok, .ok, .ok]))
      = [.cmd 0x04000000000000000001, .rsp .illegalCommand 0 0] := by decide

/-- A good run and one that is not (P5 step 2). -/
theorem test_goodRun :
    goodRun 1 (given (cfg12 1) 0x03000000000000000000 []) = true ∧
    goodRun 1 (given (cfg12 1) 0x04000000000000000001 []) = false := by decide

/-- R57: `tx_last` with the last byte. -/
theorem test_txBytes : txBytes [1, 2] = [.tx 1 false, .tx 2 true] ∧ txBytes [] = [] := by decide

/-- R57: an `Err` after one of three bytes stops the stream; an `Ok` comes after all of them. -/
theorem test_transferPort :
    transferPort [.notReady, .ready, .notReady, .done (.err 7), .ready] [1, 2, 3] = ([.tx 1 false], some (.err 7)) ∧
    transferPort [.ready, .ready, .done .ok] [1, 2] = ([.tx 1 false, .tx 2 true], some .ok) ∧
    keepsTransfer [.ready, .done .ok] [1, 2] = false := by decide

/-- R56 to R58: the ports of a WRITE whose transfer is refused after its first byte. -/
theorem test_portTrace :
    let tr : List Event := [.cmd 0, .xfer [0xAB, 0xCD], .xferAns (.err 7), .rsp .transferFailed 7 0]
    let is : List TxInput := [.ready, .done (.err 7)]
    portTrace [is] tr = [.xferStart 2, .tx 0xAB false, .rsp 2 7 0] ∧ portsAgree [is] tr = true ∧
      portsAgree [[.ready, .ready, .done .ok]] tr = false := by decide

/-- The numbers of the table of R52. -/
theorem test_status_codes :
    [Status.ok, .indexOutOfRange, .transferFailed, .latchFailed, .illegalCommand, .destroyed].map Status.code
      = [0, 1, 2, 3, 4, 5] := by decide

/-! Witnesses: for each statement with hypotheses, states and operands that meet them together. -/

/-! The command word. -/

theorem witness_CommandWordDecodesToItsCommand :
    (Instr.setChannel 16777215 65535).wf = true ∧ (Instr.setRgb 0 65535 0 65535).wf = true ∧
      (Instr.getChannel 16777215).wf = true ∧ Instr.write.wf = true ∧ Instr.destroy.wf = true := by decide

theorem witness_LegalWordIsTheWordOfItsCommand :
    decode 0x01FFFFFFFFFF00000000 = .ok (.setChannel 16777215 65535) ∧
      decode 0x02FFFFFFFFFF0000FFFF = .ok (.setRgb 16777215 65535 0 65535) ∧
      decode 0x03FFFFFF000000000000 = .ok (.getChannel 16777215) ∧
      decode 0x04000000000000000000 = .ok .write ∧ decode 0x05000000000000000000 = .ok .destroy := by decide

/-- One word for each opcode, with the fields that must be 0 at 0 and the others at their largest value. -/
theorem witness_OperandsAreTheFieldsReadUnsigned :
    (0x01FFFFFFFFFF00000000#80).toNat / 2 ^ 72 = 1 ∧ (0x01FFFFFFFFFF00000000#80).toNat / 2 ^ 16 % 2 ^ 16 = 0 ∧
      (0x01FFFFFFFFFF00000000#80).toNat % 2 ^ 16 = 0 ∧ (0x02FFFFFFFFFFFFFFFFFF#80).toNat / 2 ^ 72 = 2 ∧
      (0x03FFFFFF000000000000#80).toNat / 2 ^ 72 = 3 ∧ (0x03FFFFFF000000000000#80).toNat % 2 ^ 48 = 0 ∧
      (0x04000000000000000000#80).toNat / 2 ^ 72 = 4 ∧ (0x04000000000000000000#80).toNat % 2 ^ 72 = 0 ∧
      (0x05000000000000000000#80).toNat / 2 ^ 72 = 5 ∧ (0x05000000000000000000#80).toNat % 2 ^ 72 = 0 := by decide

/-- A ready block given a word that is not legal, live and destroyed. -/
theorem witness_WordIsLegalExactlyWhenStated :
    (given (cfg12 1) 0 []).cfg.ok = true ∧ (given (cfg12 1) 0 []).phase = .idle ∧
      (given (cfg12 1) 0 []).script = .command 0 [] :: [] ∧ (¬ ∃ i, decode 0 = .ok i) := by
  refine ⟨by decide, rfl, rfl, ?_⟩
  rw [show decode 0 = .error (.unknownOpcode 0) by decide]
  rintro ⟨i, h⟩
  cases h

theorem witness_TenBytesCarryACommand :
    (Instr.setRgb 1 2 3 4).wf = true ∧ ([1, 2, 3, 4, 5, 6, 7, 8, 9] : List Byte).length < 10 := by decide

/-! Reset and steps. -/

/-- A reset is the next input in every phase, with and without the environment's duty done. -/
theorem witness_ResetAbandonsTheCommandInProgress :
    ∀ p ∈ [Phase.idle, .xfer, .latHigh, .hold, .latLow], ∀ b ∈ [true, false],
      let s := { writing p [] with script := [.reset b] }
      s.cfg.ok = true ∧ s.script = .reset b :: [] ∧ s.phase = p := by decide

/-- One word of every command. -/
theorem witness_StepExecutesTheDecodedCommand :
    ∀ e ∈ [((0x01000000138800000000 : CmdWord), Instr.setChannel 0 5000),
        (0x0200000000C800640FA0, .setRgb 0 200 100 4000), (0x03000000000000000000, .getChannel 0),
        (0x04000000000000000000, .write), (0x05000000000000000000, .destroy)],
      let s := given (cfg12 1) e.1 [.ok]
      s.cfg.ok = true ∧ s.phase = .idle ∧ s.script = .command e.1 [.ok] :: [] ∧ decode e.1 = .ok e.2 := by decide

/-- Each clause: an illegal word, a legal one while destroyed, a legal one while live. -/
theorem witness_WordsAreHandledInTheStatedOrder :
    decode 0 = .error (.unknownOpcode 0) ∧ (given (cfg12 1) 0 []).phase = .idle ∧
      decode 0x04000000000000000000 = .ok .write ∧ (given (cfg12 1) 0x04000000000000000000 []).life = .live ∧
      { given (cfg12 1) 0x04000000000000000000 [] with life := .destroyed }.life = .destroyed ∧
      { given (cfg12 1) 0x04000000000000000000 [] with life := .destroyed }.cfg.ok = true := by decide

/-- The two clauses: a command for a busy block, and a busy block with a word presented. -/
theorem witness_BusyBlockAcceptsNoCommand :
    let s := { writing .xfer [] with script := [.command 0x05000000000000000000 []] }
    s.cfg.ok = true ∧ s.phase ≠ .idle ∧ s.script = .command 0x05000000000000000000 [] :: [] ∧
      (after (step s)).isSome = true := by decide

theorem witness_BadConfigurationIsRefused :
    (State.resetOf { cfg12 1 with holdCycles := 0 }).cfg.ok = false ∧
      (State.resetOf { cfg12 1 with rgbOff := ⟨0, 1, 24⟩ }).cfg.ok = false ∧
      (State.resetOf { cfg12 1 with hdr := [0] }).cfg.ok = false := by decide

/-- Each phase that waits for an answer. -/
theorem witness_UnansweredWriteWaitsForEver :
    ∀ p ∈ [Phase.xfer, .latHigh, .latLow],
      (writing p []).cfg.ok = true ∧ (writing p []).phase ≠ .idle ∧ (writing p []).phase ≠ .hold ∧
        (writing p []).answers = [] ∧ (writing p []).script = [] := by decide

theorem witness_no_reset (p : Phase) : ∀ driven rest, (writing p []).script ≠ .reset driven :: rest := by
  intro driven rest h
  cases h

/-- An error of each kind that a command ends with. -/
theorem witness_ErrorsChangeNothingElse :
    (traceOf (exec (.setChannel 24 1) (fresh (cfg12 1) []))).getLast? = some (.rsp .indexOutOfRange 0 0) ∧
      (traceOf (exec (.getChannel 0) (gone (cfg12 1)))).getLast? = some (.rsp .destroyed 0 0) ∧
      (traceOf (exec .write (fresh (cfg12 0) [.err 7]))).getLast? = some (.rsp .transferFailed 7 0) ∧
      (traceOf (exec .write (fresh (cfg12 0) [.ok, .err 9]))).getLast? = some (.rsp .latchFailed 9 0) := by decide

theorem witness_BlockNeverHalts : (writing .latLow []).cfg.ok = true ∧ State.reset.cfg.ok = true := by decide

theorem witness_OtherBusUseLeavesTheOutputs :
    let s := { State.resetOf (cfg12 1) with script := [.otherBusUse] }
    s.cfg.ok = true ∧ s.phase = .idle ∧ s.script = .otherBusUse :: [] := by decide

/-! The buffer commands. The result is an if and else chain; both sides are met at the boundary. -/

theorem witness_SetChannelStoresTheTruncatedValue :
    Ready (fresh (cfg12 1) []) ∧ 23 < (fresh (cfg12 1) []).cfg.total ∧ ¬ 24 < (fresh (cfg12 1) []).cfg.total := by
  decide

theorem witness_SetRgbStoresThreeChannels :
    Ready (fresh (cfg16 2 []) []) ∧ 1 < (fresh (cfg16 2 []) []).cfg.n ∧ ¬ 2 < (fresh (cfg16 2 []) []).cfg.n := by
  decide

theorem witness_GetChannelRespondsTheEntry :
    Ready (fresh (cfg16 2 []) []) ∧ 23 < (fresh (cfg16 2 []) []).cfg.total ∧
      ¬ 24 < (fresh (cfg16 2 []) []).cfg.total ∧
      bufferWf (fresh (cfg16 2 []) []).cfg (fresh (cfg16 2 []) []).val = true := by decide

theorem witness_ReadBackYieldsTheTruncatedValue :
    let s := fresh (cfg12 2) []
    Ready s ∧ bufferWf s.cfg s.val = true ∧ 47 < s.cfg.total ∧ 1 < s.cfg.n ∧ s.cfg.rgbOff.r ≠ s.cfg.rgbOff.g ∧
      s.cfg.rgbOff.r ≠ s.cfg.rgbOff.b ∧ s.cfg.rgbOff.g ≠ s.cfg.rgbOff.b := by decide

/-- Each clause: a setter, each setter by name, the reader, all answered. -/
theorem witness_BufferCommandsFrame :
    ∀ i ∈ [Instr.setChannel 1 2, .setRgb 0 1 2 3, .getChannel 5],
      i ≠ .write ∧ i ≠ .destroy ∧ (after (exec i (fresh (cfg12 1) []))).isSome = true := by decide

theorem witness_DestroyGivesUpBothCapabilities :
    Ready (fresh (cfg12 1) []) ∧ (after (exec .destroy (fresh (cfg12 1) []))).isSome = true ∧
      (gone (cfg12 1)).cfg.ok = true ∧ (gone (cfg12 1)).phase = .idle ∧ (gone (cfg12 1)).life = .destroyed := by
  decide

theorem witness_DestroyedBlockOnlyAnswersDestroyed :
    (gone (cfg16 1 [])).cfg.ok = true ∧ (gone (cfg16 1 [])).phase = .idle ∧ (gone (cfg16 1 [])).life = .destroyed := by
  decide

/-! WRITE. -/

/-- The four answer patterns. -/
theorem witness_WriteHasTheFourTraces :
    ∀ as ∈ [[Answer.ok, .ok, .ok], [.err 1], [.ok, .err 2], [.ok, .ok, .err 3]],
      Ready (fresh (cfg12 1) as) ∧ (fresh (cfg12 1) as).answers = as := by decide

/-- The three patterns that leave a request unanswered. -/
theorem witness_WriteWaitsForTheNextAnswer :
    ∀ as ∈ [([] : List Answer), [.ok], [.ok, .ok]],
      Ready (fresh (cfg12 1) as) ∧ (fresh (cfg12 1) as).answers = as := by decide

/-- Both sides of the equivalence. -/
theorem witness_WriteEndsExactlyWhenAnswered :
    Ready (fresh (cfg12 1) [.ok, .err 2]) ∧ answered [.ok, .err 2] = true ∧ Ready (fresh (cfg12 1) [.ok, .ok]) ∧
      answered [.ok, .ok] = false := by decide

theorem witness_FailedTransferTouchesNoLatch :
    Ready (fresh (cfg12 1) [.err 255]) ∧ (fresh (cfg12 1) [.err 255]).answers = .err 255 :: [] := by decide

theorem witness_FailedLatchDriveLeavesTheBuffer :
    ∀ as ∈ [[Answer.ok, .err 9], [.ok, .ok, .err 9]],
      Ready (fresh (cfg12 0) as) ∧ (as = .ok :: .err 9 :: [] ∨ as = .ok :: .ok :: .err 9 :: []) ∧
        (after (exec .write (fresh (cfg12 0) as))).isSome = true := by decide

/-- A WRITE that ended, one that waits, one given to a busy block, one given to a destroyed block. -/
theorem witness_WriteNeverTouchesTheBuffer :
    (after (exec .write (fresh (cfg12 0) [.ok, .ok, .ok]))).isSome = true ∧
      (after (exec .write (fresh (cfg12 0) [.ok]))).isSome = true ∧
      (after (exec .write (writing .xfer []))).isSome = true ∧
      (after (exec .write (gone (cfg12 0)))).isSome = true := by decide

/-- The two clauses; in the first the events of both pin requests occur. -/
theorem witness_WriteRequestsEachAtMostOnce :
    Ready (fresh (cfg12 0) [.ok, .ok, .ok]) ∧
      Event.low ∈ traceOf (exec .write (fresh (cfg12 0) [.ok, .ok, .ok])) ∧
      Instr.destroy ≠ .write ∧ (after (exec .destroy (fresh (cfg12 0) []))).isSome = true := by decide

/-- The clauses of the first part: each of the three ends, from a low line; the second part: another command. -/
theorem witness_WriteIsTheBarrier :
    (∀ as ∈ [[Answer.ok, .ok, .ok], [.err 7], [.ok, .err 8]],
      Ready (fresh (cfg12 0) as) ∧ LineLow (fresh (cfg12 0) as)) ∧
    (traceOf (exec .write (fresh (cfg12 0) [.ok, .ok, .ok]))).getLast? = some (.rsp .ok 0 0) ∧
    (traceOf (exec .write (fresh (cfg12 0) [.err 7]))).getLast? = some (.rsp .transferFailed 7 0) ∧
    (traceOf (exec .write (fresh (cfg12 0) [.ok, .err 8]))).getLast? = some (.rsp .latchFailed 8 0) ∧
    Instr.destroy ≠ .write ∧ (after (exec .destroy (fresh (cfg12 0) []))).isSome = true := by decide

/-- From a line that is not low, too. -/
theorem witness_ChipsShowTheOldOrTheNewFrame :
    let s := { fresh (cfg12 0) [.ok, .ok, .ok] with lat := .unknown }
    Ready s ∧ s.answers = .ok :: [.ok, .ok] ∧ (traceOf (exec .write s)).getLast? = some (.rsp .ok 0 0) := by decide

theorem witness_RepeatedWriteChangesNothingShown :
    let s := fresh (cfg12 1) [.ok, .ok, .ok, .ok, .ok, .ok]
    Ready s ∧ LineLow s ∧ s.answers = [.ok, .ok, .ok, .ok, .ok, .ok] ++ [] := by decide

/-- Every row of the table, and the two waits. -/
theorem witness_PhaseTableHolds :
    (∀ p ∈ [Phase.xfer, .latHigh, .latLow], ∀ as ∈ [[], [Answer.ok], [.err 7]],
      (writing p as).phase = p ∧ (writing p as).answers = as) ∧
    (writing .hold []).phase = .hold ∧ (writing .hold []).hold = 0 ∧
    { writing .hold [] with hold := 2 }.hold = 1 + 1 ∧
    Ready (fresh (cfg12 1) []) ∧ (fresh (cfg12 1) []).answers = [] ∧ Instr.destroy ≠ .write := by decide

theorem witness_LatchIsHeldForTheHoldTime :
    (writing .latHigh [.ok]).phase = .latHigh ∧ (writing .latHigh [.ok]).answers = .ok :: [] ∧
      { writing .hold [] with hold := 3 }.phase = .hold ∧ 3 ≤ { writing .hold [] with hold := 3 }.hold := by decide

/-! The serializer. -/

/-- The first and the last bit of the frames of two chips. -/
theorem witness_BlockFormIsTheBitForm :
    0 < 8 * ((cfg12 2).n * ((cfg12 2).hdr.length + (cfg12 2).bits * (cfg12 2).channels / 8)) ∧
      415 < 8 * ((cfg16 2 [1, 2]).n *
        ((cfg16 2 [1, 2]).hdr.length + (cfg16 2 [1, 2]).bits * (cfg16 2 [1, 2]).channels / 8)) := by decide

theorem witness_FrameHasItsLength :
    (cfg12 3).variant = .twelveBit24Channel ∧ (cfg12 3).hdr = [] ∧
      (cfg16 3 [1]).variant = .sixteenBit12Channel := by decide

/-- The first and the last device. -/
theorem witness_ChipBlocksStandInDescendingOrder : 0 < (cfg12 2).n ∧ 1 < (cfg12 2).n := by decide

theorem witness_TwelveBitPairsPackIntoThreeBytes :
    (cfg12 2).variant = .twelveBit24Channel ∧ (cfg12 2).hdr = [] ∧ 1 < (cfg12 2).n ∧ 11 < 12 := by decide

theorem witness_SixteenBitValuesAreTwoBytes :
    (cfg16 2 [7, 8]).variant = .sixteenBit12Channel ∧ 1 < (cfg16 2 [7, 8]).n ∧ 11 < 12 ∧
      1 < (cfg16 2 [7, 8]).hdr.length := by decide

/-- The three clauses. -/
theorem witness_EmptyChainHasTheEmptyFrame :
    (cfg16 0 [1]).n = 0 ∧
    (∀ as ∈ [[Answer.ok, .ok, .ok], [.err 5]],
      Ready (fresh (cfg16 0 [1]) as) ∧ (fresh (cfg16 0 [1]) as).cfg.n = 0 ∧ (fresh (cfg16 0 [1]) as).answers = as) := by
  decide

/-- An all-zero buffer, the first clause at the last byte of a block, the second with a zero control word. -/
theorem witness_ZeroBufferHasZeroChannelData :
    (∀ v ∈ List.replicate 24 (0 : Value), v = 0) ∧ 1 < (cfg16 2 [0, 0]).n ∧
      23 < (cfg16 2 [0, 0]).bits * (cfg16 2 [0, 0]).channels / 8 ∧ (∀ b ∈ (cfg16 2 [0, 0]).hdr, b = 0) :=
  ⟨fun _ h => List.eq_of_mem_replicate h, by decide, by decide, by simp [cfg16]⟩

/-- Both variants, the largest value, the last byte of a block. -/
theorem witness_LastChipIsSentFirst :
    (cfg12 2).ok = true ∧ (cfg12 2).n = 2 ∧ (0xFFF : Value).toNat ≤ (cfg12 2).mask ∧
      (cfg12 2).variant = .twelveBit24Channel ∧ (cfg16 2 [9]).ok = true ∧ (cfg16 2 [9]).n = 2 ∧
      (0xFFFF : Value).toNat ≤ (cfg16 2 [9]).mask ∧ (cfg16 2 [9]).variant = .sixteenBit12Channel ∧
      35 < (cfg12 2).bits * (cfg12 2).channels / 8 := by decide

/-- The last entry of the last device; its last bit; bits before and behind it; another byte; another device;
another entry. -/
theorem witness_EachEntryHasItsOwnFrameBits :
    let p0 := 8 * (((cfg12 2).n - 1 - 1) * (cfg12 2).blockBytes + (cfg12 2).hdr.length) + (cfg12 2).bits * 23
    1 < (cfg12 2).n ∧ 23 < (cfg12 2).channels ∧ 11 < (cfg12 2).bits ∧ 275 < p0 ∧ p0 + (cfg12 2).bits ≤ 288 ∧
      33 ≠ p0 / 8 ∧ 33 ≠ p0 / 8 + 1 ∧ 0 ≠ 1 ∧ 0 < (cfg12 2).n ∧ ((0, 23) : Nat × Nat) ≠ (1, 23) := by decide

theorem witness_FrameDeterminesTheBuffer :
    bufferWf (cfg12 1) (buffer 24 [(0, 0xFFF)]) = true ∧
      serialize (cfg12 1) (buffer 24 [(0, 0xFFF)]) = serialize (cfg12 1) (buffer 24 [(0, 0xFFF)]) := by decide

/-! Invariants. -/

/-- A state with the invariant in which a WRITE waits with the latch line high. -/
def pulsing : State :=
  { writing .latLow [] with
    lat := .high
    chain := { sr := .holds [], out := .unknown, line := .high, clean := true }
    trace := [.cmd 0x04000000000000000000, .xfer [], .xferAns .ok, .high, .highAns .ok, .held, .low] }

theorem witness_EveryStepKeepsTheInvariant : Inv pulsing ∧ ∃ t, step pulsing = .next t :=
  ⟨⟨by decide, by decide, by decide, by decide, by decide, by decide, by decide⟩, _, rfl⟩

theorem witness_EveryStepKeepsTheProtocol : TraceKeepsProtocol pulsing ∧ ∃ t, step pulsing = .next t :=
  ⟨by decide, _, rfl⟩

theorem witness_OutputsAreNeverAMixture :
    Inv (pulsing.takeAnswer [.ok]) ∧ ∃ t, step (pulsing.takeAnswer [.ok]) = .next t :=
  ⟨⟨by decide, by decide, by decide, by decide, by decide, by decide, by decide⟩, _, rfl⟩

/-- A step of each writer. -/
theorem witness_OnlyTheNamedCommandsWriteEachPart :
    [(0x01000000138800000000 : CmdWord), 0x0200000000C800640FA0, 0x04000000000000000000,
      0x05000000000000000000].all (fun w => (after (step (given (cfg12 1) w []))).isSome) = true := by decide

/-- Two states that differ in `lat`, in the chain and in the free values, and a step of one of them. -/
theorem witness_BlockDoesNotLookAtTheChain :
    SameBlock pulsing { pulsing with lat := .unknown, draws := 5, chain := (writing .idle []).chain } ∧
      ∃ t, step pulsing = .next t :=
  ⟨⟨rfl, rfl, rfl, rfl, rfl, rfl, rfl, rfl⟩, _, rfl⟩

/-- Each clause: a full stream answered `Ok`, inputs without an answer, a WRITE whose transfer failed. -/
theorem witness_AnswerStopsTheByteStream :
    keepsTransfer [.ready, .ready, .done .ok] [1, 2] = true ∧
      (transferPort [.ready, .ready, .done .ok] [1, 2]).2 = some .ok ∧
      (transferPort [.ready] [1, 2]).2 = none ∧ Ready (fresh (cfg12 0) [.err 7]) ∧
      (fresh (cfg12 0) [.err 7]).answers = .err 7 :: [] ∧
      (after (exec .write (fresh (cfg12 0) [.err 7]))).isSome = true := by decide

/-- The first and the last byte of a frame. -/
theorem witness_TransferStreamsTheFrame :
    ([1, 2, 3] : Frame)[0]? = some 1 ∧ ([1, 2, 3] : Frame)[2]? = some 3 := by decide

end Sys2Proof.Tests
end

section
/-! SUPPORT. The state's family (10_state.md): what each part of the machine keeps, and the statements on the state
as a whole: its reset values, its invariant, who writes what, and what the block does not look at. -/

namespace Sys2Proof.Machine

/-! ## The steps, input by input -/

theorem step_of_busy {s : State} (hc : s.cfg.ok = true) (hp : s.phase ≠ .idle) : step s = .next s.resume := by
  simp [step, hc, hp]

theorem step_of_noInput {s : State} (hc : s.cfg.ok = true) (hp : s.phase = .idle) (hs : s.script = []) :
    step s = .next s := by
  simp [step, hc, hp, hs]

theorem step_of_reset {s : State} {b : Bool} {rest : List HostInput} (hc : s.cfg.ok = true) (hp : s.phase = .idle)
    (hs : s.script = .reset b :: rest) : step s = .next ({ s with script := rest }.doReset b) := by
  simp [step, hc, hp, hs]

theorem step_of_otherBusUse {s : State} {rest : List HostInput} (hc : s.cfg.ok = true) (hp : s.phase = .idle)
    (hs : s.script = .otherBusUse :: rest) : step s = .next { s with script := rest }.busShared := by
  simp [step, hc, hp, hs]

theorem step_of_legal {s : State} {w : CmdWord} {as : List Answer} {rest : List HostInput} {i : Instr}
    (hc : s.cfg.ok = true) (hp : s.phase = .idle) (hs : s.script = .command w as :: rest) (hd : decode w = .ok i) :
    step s = exec i (s.accept w as rest) := by
  simp [step, hc, hp, hs, hd]

theorem step_of_illegal {s : State} {w : CmdWord} {as : List Answer} {rest : List HostInput} {e : Illegal}
    (hc : s.cfg.ok = true) (hp : s.phase = .idle) (hs : s.script = .command w as :: rest)
    (hd : decode w = .error e) : step s = .next ((s.accept w as rest).raise .illegalCommand 0) := by
  simp [step, hc, hp, hs, hd]

theorem resume_of_reset {s : State} {b : Bool} {rest : List HostInput} (hs : s.script = .reset b :: rest) :
    s.resume = { s with script := rest }.doReset b := by
  simp [State.resume, hs]

/-- A busy block with no reset next and no answer waits, unless it is the hold timer that it waits for. -/
theorem resume_of_waiting {s : State} (hs : ∀ b rest, s.script ≠ .reset b :: rest) (ha : s.answers = [])
    (hp : s.phase ≠ .hold) : s.resume = s.wait := by
  rcases resume_cases s with ⟨b, rest, h, _⟩ | ⟨_, ⟨_, _, h⟩ | ⟨h | h, _⟩⟩
  · exact absurd h (hs b rest)
  · exact h
  · exact absurd ha h
  · exact absurd h hp

/-- A busy block with no reset next runs its sequencer on when an answer is there or the hold timer runs. -/
theorem resume_of_going {s : State} (hs : ∀ b rest, s.script ≠ .reset b :: rest)
    (h : s.answers ≠ [] ∨ s.phase = .hold) : s.resume = s.settle := by
  rcases resume_cases s with ⟨b, rest, h', _⟩ | ⟨_, ⟨ha, hp, _⟩ | ⟨_, h'⟩⟩
  · exact absurd h' (hs b rest)
  · exact absurd h (by simp [ha, hp])
  · exact h'

/-! ## The commands' own pseudocode -/

theorem setChannelBody_cases (i v : Nat) (s : State) :
    setChannelBody i v s = s.raise .indexOutOfRange 0 ∨
      setChannelBody i v s = (s.writeEntry i v).respond .ok 0 0 := by
  unfold setChannelBody; split <;> simp

theorem setRgbBody_cases (d r g b : Nat) (s : State) :
    setRgbBody d r g b s = s.raise .indexOutOfRange 0 ∨
      setRgbBody d r g b s =
        (((s.writeEntry (globalIndex s.cfg d s.cfg.rgbOff.r) r).writeEntry
          (globalIndex s.cfg d s.cfg.rgbOff.g) g).writeEntry
          (globalIndex s.cfg d s.cfg.rgbOff.b) b).respond .ok 0 0 := by
  unfold setRgbBody rgbIndices; dsimp only; split <;> simp

theorem getChannelBody_cases (i : Nat) (s : State) :
    getChannelBody i s = s.raise .indexOutOfRange 0 ∨ getChannelBody i s = s.respond .ok 0 (s.readEntry i) := by
  unfold getChannelBody; split <;> simp

/-- A property of every next state of `exec`, from the three ways it answers: not accepted, `Destroyed`, or the
command's own pseudocode (R59). -/
theorem exec_elim {P : State → Prop} {i : Instr} {s t : State} (h : exec i s = .next t) (hs : P s)
    (hr : s.phase = .idle → P (s.raise .destroyed 0))
    (hb : s.phase = .idle → s.life = .live → P (bodyOf i s)) : P t := by
  obtain ⟨_, ⟨_, rfl⟩ | ⟨hp, _, rfl⟩ | ⟨hp, hl, rfl⟩⟩ := exec_cases h
  exacts [hs, hr hp, hb hp hl]

/-- A part of the state that the command's own pseudocode leaves alone, `exec` leaves alone. -/
theorem exec_keeps {α : Type} (part : State → α) {i : Instr} {s t : State} (h : exec i s = .next t)
    (hr : part (s.raise .destroyed 0) = part s) (hb : part (bodyOf i s) = part s) : part t = part s :=
  exec_elim (P := fun t => part t = part s) h rfl (fun _ => hr) fun _ _ => hb

/-- `t` is `s` with more events, and at most with other values in the buffer (R40). -/
def AlteredInBuffer (s t : State) : Prop :=
  t = { s with val := t.val, trace := t.trace } ∧ t.val.length = s.val.length

theorem AlteredInBuffer.refl (s : State) : AlteredInBuffer s s := ⟨rfl, rfl⟩

theorem alteredInBuffer_raise {s : State} (hp : s.phase = .idle) (st : Status) (c : Nat) :
    AlteredInBuffer s (s.raise st c) := by
  refine ⟨?_, rfl⟩
  simp [State.raise, State.respond, State.emit, hp]

/-- The three buffer commands alter nothing beside the buffer and the trace (R60, R61, R62). -/
theorem bodyOf_alteredInBuffer {i : Instr} {s : State} (hw : i ≠ .write) (hd : i ≠ .destroy)
    (hp : s.phase = .idle) : AlteredInBuffer s (bodyOf i s) := by
  cases i with
  | setChannel i v =>
    rcases setChannelBody_cases i v s with h | h <;> rw [bodyOf, h]
    · exact alteredInBuffer_raise hp _ _
    · exact ⟨rfl, by simp⟩
  | setRgb d r g b =>
    rcases setRgbBody_cases d r g b s with h | h <;> rw [bodyOf, h]
    · exact alteredInBuffer_raise hp _ _
    · exact ⟨rfl, by simp⟩
  | getChannel i =>
    rcases getChannelBody_cases i s with h | h <;> rw [bodyOf, h]
    · exact alteredInBuffer_raise hp _ _
    · exact ⟨rfl, rfl⟩
  | write => exact absurd rfl hw
  | destroy => exact absurd rfl hd

theorem exec_alteredInBuffer {i : Instr} {s t : State} (hw : i ≠ .write) (hd : i ≠ .destroy)
    (h : exec i s = .next t) : AlteredInBuffer s t :=
  exec_elim h (.refl s) (fun hp => alteredInBuffer_raise hp _ _) fun hp _ => bodyOf_alteredInBuffer hw hd hp

/-! ## What waiting and each command leave alone -/

theorem wait_cases (s : State) : s.wait = s ∨ (s.phase = .latLow ∧ s.wait = s.drawCommit) := by
  unfold State.wait; split <;> simp_all

@[simp] theorem wait_cfg (s : State) : s.wait.cfg = s.cfg := by
  rcases wait_cases s with h | ⟨_, h⟩ <;> simp [h]
@[simp] theorem wait_val (s : State) : s.wait.val = s.val := by
  rcases wait_cases s with h | ⟨_, h⟩ <;> simp [h]
@[simp] theorem wait_life (s : State) : s.wait.life = s.life := by
  rcases wait_cases s with h | ⟨_, h⟩ <;> simp [h]

theorem bodyOf_cfg (i : Instr) (s : State) : (bodyOf i s).cfg = s.cfg := by
  cases i with
  | setChannel i v => rcases setChannelBody_cases i v s with h | h <;> simp [bodyOf, h]
  | setRgb d r g b => rcases setRgbBody_cases d r g b s with h | h <;> simp [bodyOf, h]
  | getChannel i => rcases getChannelBody_cases i s with h | h <;> simp [bodyOf, h]
  | write => simp [bodyOf, writeBody]
  | destroy => rfl

theorem getChannelBody_val (i : Nat) (s : State) : (getChannelBody i s).val = s.val := by
  rcases getChannelBody_cases i s with h | h <;> simp [h]

@[simp] theorem writeBody_val (s : State) : (writeBody s).val = s.val := by simp [writeBody]

@[simp] theorem writeBody_life (s : State) : (writeBody s).life = s.life := by simp [writeBody]

theorem exec_cfg {i : Instr} {s t : State} (h : exec i s = .next t) : t.cfg = s.cfg :=
  exec_keeps State.cfg h rfl (bodyOf_cfg i s)

/-- The buffer is written by the two setters only (R17, R86). -/
theorem exec_val {i : Instr} {s t : State} (h : exec i s = .next t) :
    t.val = s.val ∨ (∃ j v, i = .setChannel j v) ∨ ∃ d r g b, i = .setRgb d r g b := by
  cases i with
  | setChannel j v => exact .inr (.inl ⟨j, v, rfl⟩)
  | setRgb d r g b => exact .inr (.inr ⟨d, r, g, b, rfl⟩)
  | getChannel j => exact .inl (exec_keeps State.val h rfl (getChannelBody_val j s))
  | write => exact .inl (exec_keeps State.val h rfl (writeBody_val s))
  | destroy => exact .inl (exec_keeps State.val h rfl rfl)

/-- `life` is written by DESTROY only, from Live to Destroyed (R21, R92). -/
theorem exec_life {i : Instr} {s t : State} (h : exec i s = .next t) :
    t.life = s.life ∨ (i = .destroy ∧ s.life = .live ∧ t.life = .destroyed) := by
  by_cases hd : i = .destroy
  · subst hd
    obtain ⟨_, ⟨_, rfl⟩ | ⟨_, _, rfl⟩ | ⟨_, hl, rfl⟩⟩ := exec_cases h
    exacts [.inl rfl, .inl rfl, .inr ⟨rfl, hl, rfl⟩]
  left
  by_cases hw : i = .write
  · subst hw
    exact exec_keeps State.life h rfl (writeBody_life s)
  · rw [(exec_alteredInBuffer hw hd h).1]

/-- `lat` is written by WRITE only (R22). -/
theorem exec_lat {i : Instr} {s t : State} (h : exec i s = .next t) : t.lat = s.lat ∨ i = .write := by
  by_cases hw : i = .write
  · exact .inr hw
  left
  by_cases hd : i = .destroy
  · subst hd
    exact exec_keeps State.lat h rfl rfl
  · rw [(exec_alteredInBuffer hw hd h).1]

/-- A busy block that is not reset keeps everything but the sequencer's own part (R86). -/
theorem resume_same (s : State) :
    (∃ b rest, s.script = .reset b :: rest) ∨
      (s.resume.cfg = s.cfg ∧ s.resume.val = s.val ∧ s.resume.life = s.life) := by
  rcases resume_cases s with ⟨b, rest, hs, _⟩ | ⟨_, ⟨_, _, h⟩ | ⟨_, h⟩⟩
  · exact .inl ⟨b, rest, hs⟩
  · exact .inr (by simp [h])
  · exact .inr (by simp [h])

theorem resume_cfg (s : State) : s.resume.cfg = s.cfg := by
  rcases resume_cases s with ⟨b, rest, _, h⟩ | ⟨_, ⟨_, _, h⟩ | ⟨_, h⟩⟩ <;> simp [h]

/-! ## The invariant -/

/-- Between commands the invariant is the buffer's well-formedness and an idle timer. -/
theorem inv_of_idle {s : State} (hp : s.phase = .idle) (hb : bufferWf s.cfg s.val = true) (hh : s.hold = 0) :
    Inv s where
  buffer := hb
  busyLive h := absurd hp h
  timerIdle _ := hh
  timerBound := by simp [hh]
  pulseHigh h := by simp [hp] at h
  sending h := by simp [hp] at h
  sent h := by simp [hp] at h

/-- A command that ends outside the hold time, with the buffer as it was, ends with the invariant. -/
theorem Inv.ended {s t : State} (h : Inv s) (hs : s.phase ≠ .hold) (ht : t.phase = .idle) (hc : t.cfg = s.cfg)
    (hv : t.val = s.val) (hh : t.hold = s.hold) : Inv t :=
  inv_of_idle ht (by rw [hc, hv]; exact h.buffer) (hh.trans (h.timerIdle hs))

theorem inv_doReset (b : Bool) (s : State) : Inv (s.doReset b) :=
  inv_of_idle rfl (by simpa using bufferWf_replicate s.cfg) rfl

/-- The invariant does not speak of the trace, the answers, the script, the draws, or what the chips show. -/
theorem Inv.unspoken {s : State} (h : Inv s) (trace : List Event) (answers : List Answer) (script : List HostInput)
    (draws : Nat) (out : ChainReg) (clean : Bool) :
    Inv { s with trace, answers, script, draws, chain := { s.chain with out, clean } } :=
  ⟨h.buffer, h.busyLive, h.timerIdle, h.timerBound, h.pulseHigh, h.sending, h.sent⟩

theorem Inv.drawCommit {s : State} (h : Inv s) : Inv s.drawCommit := h.unspoken _ _ _ _ _ _

theorem Inv.accept {s : State} (h : Inv s) (w : CmdWord) (as : List Answer) (rest : List HostInput) :
    Inv (s.accept w as rest) := h.unspoken _ _ _ _ _ _

theorem Inv.takeAnswer {s : State} (h : Inv s) (rest : List Answer) : Inv (s.takeAnswer rest) :=
  h.unspoken _ _ _ _ _ _

/-! The rows of the table of R94. -/

theorem Inv.requestTransfer {s : State} (h : Inv s) (hp : s.phase = .idle) (hl : s.life = .live) :
    Inv s.requestTransfer where
  buffer := h.buffer
  busyLive _ := hl
  timerIdle _ := h.timerIdle (by simp [hp])
  timerBound := h.timerBound
  pulseHigh := by simp
  sending _ := rfl
  sent := by simp

theorem Inv.transferDone {s : State} (h : Inv s) (hp : s.phase = .xfer) : Inv s.transferDone where
  buffer := h.buffer
  busyLive _ := h.busyLive (by simp [hp])
  timerIdle _ := h.timerIdle (by simp [hp])
  timerBound := h.timerBound
  pulseHigh := by simp
  sending := by simp
  sent _ := rfl

theorem Inv.raised {s : State} (h : Inv s) (hp : s.phase = .latHigh) : Inv s.raised where
  buffer := h.buffer
  busyLive _ := h.busyLive (by simp [hp])
  timerIdle := by simp
  timerBound := le_refl _
  pulseHigh _ := ⟨rfl, rfl⟩
  sending := by simp
  sent _ := h.sent (.inl hp)

theorem Inv.periodPassed {s : State} {k : Nat} (h : Inv s) (hp : s.phase = .hold) (hk : s.hold = k + 1) :
    Inv { s with hold := k } where
  buffer := h.buffer
  busyLive := h.busyLive
  timerIdle hn := absurd hp hn
  timerBound := by have hb := h.timerBound; simp only; omega
  pulseHigh := h.pulseHigh
  sending := h.sending
  sent := h.sent

theorem Inv.holdOver {s : State} (h : Inv s) (hp : s.phase = .hold) (hk : s.hold = 0) (trace : List Event) :
    Inv { s with phase := .latLow, trace := trace } where
  buffer := h.buffer
  busyLive _ := h.busyLive (by simp [hp])
  timerIdle _ := hk
  timerBound := h.timerBound
  pulseHigh _ := h.pulseHigh (.inl hp)
  sending := by simp
  sent _ := h.sent (.inr (.inl hp))

theorem Inv.advance {s : State} (h : Inv s) : Inv s.advance := by
  rcases advance_cases s with e | ⟨hp, k, hk, e⟩ | ⟨hp, hk, e⟩ | ⟨hp, r, _, e⟩ | ⟨hp, x, r, _, e⟩ | ⟨hp, r, _, e⟩ |
    ⟨hp, x, r, _, e⟩ | ⟨hp, r, _, e⟩ | ⟨hp, x, r, _, e⟩ <;> rw [e]
  · exact h
  · exact h.periodPassed hp hk
  · exact h.holdOver hp hk _
  · exact (h.takeAnswer r).transferDone hp
  · exact h.ended (by simp [hp]) (by simp) (by simp) (by simp) (by simp)
  · exact (h.takeAnswer r).raised hp
  · exact h.ended (by simp [hp]) (by simp) (by simp) (by simp) (by simp)
  · exact h.ended (by simp [hp]) (by simp) (by simp) (by simp) (by simp)
  · exact h.ended (by simp [hp]) (by simp) (by simp) (by simp) (by simp)

theorem Inv.settle {s : State} (h : Inv s) : Inv s.settle := settle_keeps (P := Inv) (fun _ => Inv.advance) h

/-! The commands, and the whole step. -/

theorem Inv.raise {s : State} (h : Inv s) (hp : s.phase = .idle) (st : Status) (c : Nat) : Inv (s.raise st c) :=
  h.ended (by simp [hp]) rfl rfl rfl rfl

theorem Inv.writeEntry {s : State} (h : Inv s) (hp : s.phase = .idle) (i v : Nat) : Inv (s.writeEntry i v) :=
  inv_of_idle hp (bufferWf_set h.buffer i v) (h.timerIdle (by simp [hp]))

theorem Inv.respond {s : State} (h : Inv s) (st : Status) (c : Nat) (d : Value) : Inv (s.respond st c d) :=
  h.unspoken _ _ _ _ _ _

theorem Inv.bodyOf {s : State} (h : Inv s) (hp : s.phase = .idle) (hl : s.life = .live) (i : Instr) :
    Inv (bodyOf i s) := by
  cases i with
  | setChannel i v =>
    rcases setChannelBody_cases i v s with e | e <;> rw [Machine.bodyOf, e]
    · exact h.raise hp _ _
    · exact (h.writeEntry hp i v).respond _ _ _
  | setRgb d r g b =>
    rcases setRgbBody_cases d r g b s with e | e <;> rw [Machine.bodyOf, e]
    · exact h.raise hp _ _
    · exact (((h.writeEntry hp _ r).writeEntry hp _ g).writeEntry hp _ b).respond _ _ _
  | getChannel i =>
    rcases getChannelBody_cases i s with e | e <;> rw [Machine.bodyOf, e]
    · exact h.raise hp _ _
    · exact h.respond _ _ _
  | write => exact (h.requestTransfer hp hl).settle
  | destroy => exact h.ended (by simp [hp]) hp rfl rfl rfl

theorem Inv.exec {s t : State} (h : Inv s) {i : Instr} (he : exec i s = .next t) : Inv t :=
  exec_elim he h (fun hp => h.raise hp _ _) fun hp hl => h.bodyOf hp hl i

theorem Inv.wait {s : State} (h : Inv s) : Inv s.wait := by
  rcases wait_cases s with e | ⟨_, e⟩ <;> rw [e]
  exacts [h, h.drawCommit]

theorem Inv.resume {s : State} (h : Inv s) : Inv s.resume := by
  rcases resume_cases s with ⟨b, rest, _, e⟩ | ⟨_, ⟨_, _, e⟩ | ⟨_, e⟩⟩ <;> rw [e]
  exacts [inv_doReset b _, h.wait, h.settle]

theorem Inv.step {s t : State} (h : Inv s) (he : step s = .next t) : Inv t := by
  obtain ⟨_, ⟨_, rfl⟩ | ⟨hp, ⟨_, rfl⟩ | ⟨b, rest, _, rfl⟩ | ⟨rest, _, rfl⟩ |
    ⟨w, as, rest, _, ⟨i, _, he⟩ | ⟨e, _, rfl⟩⟩⟩⟩ := step_cases he
  · exact h.resume
  · exact h
  · exact inv_doReset b _
  · exact h.ended (by simp [hp]) hp rfl rfl rfl
  · exact (h.accept w as rest).exec he
  · exact (h.accept w as rest).raise hp _ _

/-- Settles O46: the transitions of the sequencer and the commands keep the invariant one by one. -/
theorem everyStepKeepsTheInvariant : Obligations.EveryStepKeepsTheInvariant :=
  fun _ _ h he => h.step he

/-! ## What the block does not look at -/

/-- The state with another `lat`, another chain and other free values. -/
def State.unseen (lat : Level) (chain : Chain) (draws : Nat) (s : State) : State := { s with lat, chain, draws }

theorem sameBlock_unseen (l : Level) (c : Chain) (d : Nat) (s : State) : SameBlock s (s.unseen l c d) :=
  ⟨rfl, rfl, rfl, rfl, rfl, rfl, rfl, rfl⟩

/-- Two states are the same block exactly when one is the other with other unseen parts. -/
theorem SameBlock.eq_unseen {s t : State} (h : SameBlock s t) : t = s.unseen t.lat t.chain t.draws := by
  obtain ⟨h1, h2, h3, h4, h5, h6, h7, h8⟩ := h
  simp [State.unseen, h1, h2, h3, h4, h5, h6, h7, h8]

theorem SameBlock.symm {s t : State} (h : SameBlock s t) : SameBlock t s :=
  ⟨h.cfg.symm, h.val.symm, h.life.symm, h.phase.symm, h.hold.symm, h.trace.symm, h.answers.symm, h.script.symm⟩

theorem SameBlock.trans {s t u : State} (h : SameBlock s t) (h' : SameBlock t u) : SameBlock s u :=
  ⟨h.cfg.trans h'.cfg, h.val.trans h'.val, h.life.trans h'.life, h.phase.trans h'.phase, h.hold.trans h'.hold,
    h.trace.trans h'.trace, h.answers.trans h'.answers, h.script.trans h'.script⟩

/-- Time that passes while a request is unanswered is not seen by the block. -/
theorem sameBlock_wait (s : State) : SameBlock s s.wait := by
  rcases wait_cases s with e | ⟨_, e⟩ <;> rw [e] <;> exact ⟨rfl, rfl, rfl, rfl, rfl, rfl, rfl, rfl⟩

theorem SameBlock.wait {s t : State} (h : SameBlock s t) : SameBlock s.wait t.wait :=
  (sameBlock_wait s).symm.trans (h.trans (sameBlock_wait t))

theorem SameBlock.lowered {s t : State} (h : SameBlock s t) : SameBlock s.lowered t.lowered := by
  constructor <;> simp [h.cfg, h.val, h.life, h.hold, h.trace, h.answers, h.script]

theorem SameBlock.doReset {s t : State} (h : SameBlock s t) (b : Bool) : SameBlock (s.doReset b) (t.doReset b) := by
  constructor <;> simp [h.cfg, h.script]

/-- An operation whose outcome is the same block wherever the unseen parts differ takes the same block to the same
block. -/
theorem SameBlock.congr {s t : State} (h : SameBlock s t) {f : State → State}
    (hf : ∀ l c d, SameBlock (f s) (f (s.unseen l c d))) : SameBlock (f s) (f t) := by
  rw [h.eq_unseen]; exact hf _ _ _

theorem SameBlock.takeAnswer {s t : State} (h : SameBlock s t) (rest : List Answer) :
    SameBlock (s.takeAnswer rest) (t.takeAnswer rest) :=
  h.congr fun _ _ _ => ⟨rfl, rfl, rfl, rfl, rfl, rfl, rfl, rfl⟩

theorem SameBlock.requestTransfer {s t : State} (h : SameBlock s t) :
    SameBlock s.requestTransfer t.requestTransfer :=
  h.congr fun _ _ _ => ⟨rfl, rfl, rfl, rfl, rfl, rfl, rfl, rfl⟩

theorem SameBlock.transferDone {s t : State} (h : SameBlock s t) : SameBlock s.transferDone t.transferDone :=
  h.congr fun _ _ _ => ⟨rfl, rfl, rfl, rfl, rfl, rfl, rfl, rfl⟩

theorem SameBlock.transferFailed {s t : State} (h : SameBlock s t) (e : Nat) :
    SameBlock (s.transferFailed e) (t.transferFailed e) :=
  h.congr fun _ _ _ => ⟨rfl, rfl, rfl, rfl, rfl, rfl, rfl, rfl⟩

theorem SameBlock.raised {s t : State} (h : SameBlock s t) : SameBlock s.raised t.raised :=
  h.congr fun _ _ _ => ⟨rfl, rfl, rfl, rfl, rfl, rfl, rfl, rfl⟩

theorem SameBlock.raiseFailed {s t : State} (h : SameBlock s t) (e : Nat) :
    SameBlock (s.raiseFailed e) (t.raiseFailed e) :=
  h.congr fun _ _ _ => ⟨rfl, rfl, rfl, rfl, rfl, rfl, rfl, rfl⟩

theorem SameBlock.lowerFailed {s t : State} (h : SameBlock s t) (e : Nat) :
    SameBlock (s.lowerFailed e) (t.lowerFailed e) :=
  h.congr fun _ _ _ => ⟨rfl, rfl, rfl, rfl, rfl, rfl, rfl, rfl⟩

theorem SameBlock.raise {s t : State} (h : SameBlock s t) (st : Status) (c : Nat) :
    SameBlock (s.raise st c) (t.raise st c) :=
  h.congr fun _ _ _ => ⟨rfl, rfl, rfl, rfl, rfl, rfl, rfl, rfl⟩

theorem SameBlock.accept {s t : State} (h : SameBlock s t) (w : CmdWord) (as : List Answer) (rest : List HostInput) :
    SameBlock (s.accept w as rest) (t.accept w as rest) :=
  h.congr fun _ _ _ => ⟨rfl, rfl, rfl, rfl, rfl, rfl, rfl, rfl⟩

theorem SameBlock.withScript {s t : State} (h : SameBlock s t) (rest : List HostInput) :
    SameBlock { s with script := rest } { t with script := rest } :=
  ⟨h.cfg, h.val, h.life, h.phase, h.hold, h.trace, h.answers, rfl⟩

theorem SameBlock.busShared {s t : State} (h : SameBlock s t) : SameBlock s.busShared t.busShared :=
  ⟨h.cfg, h.val, h.life, h.phase, h.hold, h.trace, h.answers, h.script⟩

theorem SameBlock.holding {s t : State} (h : SameBlock s t) : SameBlock s.holding t.holding := by
  cases hk : s.hold with
  | zero =>
    rw [holding_zero hk, holding_zero (h.hold ▸ hk), h.trace]
    exact ⟨h.cfg, h.val, h.life, rfl, h.hold, rfl, h.answers, h.script⟩
  | succ k =>
    rw [holding_succ hk, holding_succ (h.hold ▸ hk)]
    exact ⟨h.cfg, h.val, h.life, h.phase, rfl, h.trace, h.answers, h.script⟩

/-- The sequencer takes the same row of the table of R94 in both states: phase and answers decide it, and the timer
in the phase `Hold`. -/
theorem SameBlock.advance {s t : State} (h : SameBlock s t) : SameBlock s.advance t.advance := by
  unfold State.advance
  rw [← h.phase, ← h.answers]
  cases s.phase with
  | idle => exact h
  | hold => exact h.holding
  | xfer =>
    rcases s.answers with _ | ⟨_ | e, rest⟩
    exacts [h, (h.takeAnswer rest).transferDone, (h.takeAnswer rest).transferFailed e]
  | latHigh =>
    rcases s.answers with _ | ⟨_ | e, rest⟩
    exacts [h, (h.takeAnswer rest).raised, (h.takeAnswer rest).raiseFailed e]
  | latLow =>
    rcases s.answers with _ | ⟨_ | e, rest⟩
    exacts [h, (h.takeAnswer rest).lowered, (h.takeAnswer rest).lowerFailed e]

theorem SameBlock.advanceBy (n : Nat) : ∀ {s t : State}, SameBlock s t →
    SameBlock (State.advanceBy n s) (State.advanceBy n t) := by
  induction n with
  | zero => exact fun h => h
  | succ n ih => exact fun h => ih h.advance

theorem SameBlock.settle {s t : State} (h : SameBlock s t) : SameBlock s.settle t.settle := by
  unfold State.settle
  rw [h.hold, h.cfg]
  exact h.advanceBy _

theorem SameBlock.resume {s t : State} (h : SameBlock s t) : SameBlock s.resume t.resume := by
  rcases resume_cases s with ⟨b, rest, hs, e⟩ | ⟨hs, ⟨ha, hp, e⟩ | ⟨hg, e⟩⟩ <;> rw [e]
  · rw [resume_of_reset (h.script ▸ hs)]
    exact (h.withScript rest).doReset b
  · rw [resume_of_waiting (h.script ▸ hs) (h.answers ▸ ha) (h.phase ▸ hp)]
    exact h.wait
  · rw [resume_of_going (h.script ▸ hs) (h.answers ▸ h.phase ▸ hg)]
    exact h.settle

/-- The commands other than WRITE do not even move the unseen parts. -/
theorem bodyOf_unseen {i : Instr} (hw : i ≠ .write) (l : Level) (c : Chain) (d : Nat) (s : State) :
    bodyOf i (s.unseen l c d) = (bodyOf i s).unseen l c d := by
  cases i with
  | setChannel i v => unfold bodyOf setChannelBody; rw [apply_ite (State.unseen l c d)]; rfl
  | setRgb dev r g b => unfold bodyOf setRgbBody; dsimp only; rw [apply_ite (State.unseen l c d)]; rfl
  | getChannel i => unfold bodyOf getChannelBody; rw [apply_ite (State.unseen l c d)]; rfl
  | write => exact absurd rfl hw
  | destroy => rfl

theorem SameBlock.bodyOf {s t : State} (h : SameBlock s t) (i : Instr) : SameBlock (bodyOf i s) (bodyOf i t) := by
  by_cases hw : i = .write
  · subst hw
    exact h.requestTransfer.settle
  · exact h.congr fun l c d => bodyOf_unseen hw l c d s ▸ sameBlock_unseen l c d _

theorem SameBlock.exec {s t s' : State} {i : Instr} (h : SameBlock s t) (he : exec i s = .next s') :
    ∃ t', exec i t = .next t' ∧ SameBlock s' t' := by
  rw [exec_eq_command i t]
  obtain ⟨hc, ⟨hp, rfl⟩ | ⟨hp, hl, rfl⟩ | ⟨hp, hl, rfl⟩⟩ := exec_cases he <;> rw [h.cfg] at hc <;>
    rw [h.phase] at hp
  · exact ⟨t, command_of_busy hc hp _, h⟩
  · exact ⟨_, command_of_destroyed hc hp (h.life ▸ hl) _, h.raise _ _⟩
  · exact ⟨_, command_of_ready ⟨hc, hp, h.life ▸ hl⟩ _, h.bodyOf i⟩

theorem SameBlock.step {s t s' : State} (h : SameBlock s t) (he : step s = .next s') :
    ∃ t', step t = .next t' ∧ SameBlock s' t' := by
  obtain ⟨hc, ⟨hp, rfl⟩ | ⟨hp, hin⟩⟩ := step_cases he <;> rw [h.cfg] at hc <;> rw [h.phase] at hp
  · exact ⟨_, step_of_busy hc hp, h.resume⟩
  rw [h.script] at hin
  obtain ⟨hs, rfl⟩ | ⟨b, rest, hs, rfl⟩ | ⟨rest, hs, rfl⟩ | ⟨w, as, rest, hs, ⟨i, hd, he⟩ | ⟨e, hd, rfl⟩⟩ := hin
  · exact ⟨t, step_of_noInput hc hp hs, h⟩
  · exact ⟨_, step_of_reset hc hp hs, (h.withScript rest).doReset b⟩
  · exact ⟨_, step_of_otherBusUse hc hp hs, (h.withScript rest).busShared⟩
  · rw [step_of_legal hc hp hs hd]
    exact (h.accept w as rest).exec he
  · exact ⟨_, step_of_illegal hc hp hs hd, (h.accept w as rest).raise _ _⟩

/-- Settles O51: `SameBlock` is a simulation, operation by operation. -/
theorem blockDoesNotLookAtTheChain : Obligations.BlockDoesNotLookAtTheChain :=
  fun _ _ _ h he => h.step he

/-! ## The frame of the buffer commands -/

theorem setChannel_getElem?_other {s t : State} {i v j : Nat} (h : exec (.setChannel i v) s = .next t) (hj : j ≠ i) :
    t.val[j]? = s.val[j]? := by
  refine exec_keeps (fun t => t.val[j]?) h rfl ?_
  rcases setChannelBody_cases i v s with e | e <;> simp [bodyOf, e, List.getElem?_set_ne hj.symm]

theorem setRgb_getElem?_other {s t : State} {d r g b j : Nat} (h : exec (.setRgb d r g b) s = .next t)
    (hr : j ≠ globalIndex s.cfg d s.cfg.rgbOff.r) (hg : j ≠ globalIndex s.cfg d s.cfg.rgbOff.g)
    (hb : j ≠ globalIndex s.cfg d s.cfg.rgbOff.b) : t.val[j]? = s.val[j]? := by
  refine exec_keeps (fun t => t.val[j]?) h rfl ?_
  rcases setRgbBody_cases d r g b s with e | e <;>
    simp [bodyOf, e, List.getElem?_set_ne hr.symm, List.getElem?_set_ne hg.symm, List.getElem?_set_ne hb.symm]

theorem exec_getChannel_val {s t : State} {i : Nat} (h : exec (.getChannel i) s = .next t) : t.val = s.val :=
  exec_keeps State.val h rfl (getChannelBody_val i s)

/-- Settles O21: the three commands alter only the buffer and the trace, and of the buffer the addressed entries. -/
theorem bufferCommandsFrame : Obligations.BufferCommandsFrame := by
  refine ⟨fun i s t hw hd h => ?_, fun s t i v h j => setChannel_getElem?_other h,
    fun s t d r g b h j => setRgb_getElem?_other h, fun s t i => exec_getChannel_val⟩
  obtain ⟨ht, hl⟩ := exec_alteredInBuffer hw hd h
  rw [ht]
  exact ⟨rfl, rfl, rfl, rfl, rfl, rfl, rfl, rfl, rfl, hl⟩

/-! ## Who writes what -/

/-- Settles O50: by input, with what `exec_val`, `exec_life` and `exec_lat` say of each command. -/
theorem onlyTheNamedCommandsWriteEachPart : Obligations.OnlyTheNamedCommandsWriteEachPart := by
  intro s t h reset runs
  obtain ⟨_, ⟨hp, rfl⟩ | ⟨hp, ⟨_, rfl⟩ | ⟨b, rest, hs, rfl⟩ | ⟨rest, _, rfl⟩ |
    ⟨w, as, rest, hs, ⟨i, hd, he⟩ | ⟨e, _, rfl⟩⟩⟩⟩ := step_cases h
  · rcases resume_same s with hr | ⟨hc, hv, hl⟩
    · exact ⟨resume_cfg s, .inr (.inl hr), .inr (.inl hr), .inr (.inl hr)⟩
    · exact ⟨hc, .inl hv, .inl hl, .inr (.inr (.inr hp))⟩
  · exact ⟨rfl, .inl rfl, .inl rfl, .inl rfl⟩
  · have hr : reset := ⟨b, rest, hs⟩
    exact ⟨by simp, .inr (.inl hr), .inr (.inl hr), .inr (.inl hr)⟩
  · exact ⟨rfl, .inl rfl, .inl rfl, .inl rfl⟩
  · have hi : runs i := ⟨hp, w, as, rest, hs, hd⟩
    refine ⟨(exec_cfg he).trans rfl, ?_, ?_, ?_⟩
    · rcases exec_val he with hv | ⟨j, v, rfl⟩ | ⟨d, r, g, b, rfl⟩
      exacts [.inl hv, .inr (.inr (.inl ⟨j, v, hi⟩)), .inr (.inr (.inr ⟨d, r, g, b, hi⟩))]
    · rcases exec_life he with hl | ⟨rfl, hl, ht⟩
      exacts [.inl hl, .inr (.inr ⟨hi, hl, ht⟩)]
    · rcases exec_lat he with hl | rfl
      exacts [.inl hl, .inr (.inr (.inl hi))]
  · exact ⟨rfl, .inl rfl, .inl rfl, .inl rfl⟩

/-! ## The state after construction -/

/-- Settles O7: the buffer is the zero replicated `L` times, the rest is read off the definition. -/
theorem constructionGivesTheResetValues : Obligations.ConstructionGivesTheResetValues := by
  intro c
  have hlen : (State.resetOf c).val.length = c.total := List.length_replicate
  have hzero : ∀ v ∈ (State.resetOf c).val, v = 0 := fun _ => List.eq_of_mem_replicate
  exact ⟨hlen, hzero, rfl, rfl, rfl, rfl, rfl, rfl, rfl, rfl, rfl, rfl⟩

theorem inv_resetOf (c : Config) : Inv (State.resetOf c) := inv_of_idle rfl (bufferWf_replicate c) rfl

/-- The empty trace is where the protocol begins. -/
theorem traceKeepsProtocol_resetOf (c : Config) : TraceKeepsProtocol (State.resetOf c) := rfl

/-- Settles O48: `State.reset` is the state after construction of `Config.initial`. -/
theorem constructionHasTheInvariants : Obligations.ConstructionHasTheInvariants :=
  ⟨inv_resetOf _, traceKeepsProtocol_resetOf _, fun c => ⟨inv_resetOf c, traceKeepsProtocol_resetOf c⟩⟩

end Sys2Proof.Machine
end

section
/-! SUPPORT. The memory's family (20_memory.md): what a WRITE leaves in the chain, and that nothing else reaches it. -/

namespace Sys2Proof.Machine

/-! ## Old or new, never a mixture -/

/-- A draw between two things, one of which stands in the outputs already, leaves one of the two (R39). -/
theorem drawnOut_oldOrNew {old new out : ChainReg} (h : out = old ∨ out = new) (k : Nat) :
    drawnOut k new out = old ∨ drawnOut k new out = new := by
  rcases drawnOut_cases k new out with e | e <;> rw [e]
  exacts [h, .inr rfl]

/-- The outputs when `set_low` is answered: the copy of R39 (a), or a draw. -/
theorem loweredOut_oldOrNew {old new out : ChainReg} (h : out = old ∨ out = new) (clean : Bool) (k : Nat) :
    (bif clean then new else drawnOut k new out) = old ∨ (bif clean then new else drawnOut k new out) = new := by
  cases clean
  exacts [drawnOut_oldOrNew h k, .inr rfl]

/-! ## WRITE, by the answers to it -/

/-- The response of a WRITE tells how far its requests got (R87). -/
theorem writeBody_response {s : State} {st : Status} {c : Nat} {d : Value}
    (h : (writeBody s).trace.getLast? = some (.rsp st c d)) :
    (st = .transferFailed ∧ ∃ rest, s.answers = .err c :: rest) ∨
      (st = .latchFailed ∧ ∃ rest, s.answers = .ok :: rest) ∨
      (st = .ok ∧ ∃ rest, s.answers = .ok :: .ok :: .ok :: rest) := by
  rcases writeBody_cases s with ⟨_, e⟩ | ⟨_, e⟩ | ⟨_, e⟩ | ⟨x, rest, ha, e⟩ | ⟨x, rest, ha, e⟩ | ⟨x, rest, ha, e⟩ |
    ⟨rest, ha, e⟩ <;> rw [e] at h
  iterate 3 simp at h  -- a WRITE that waits has made a request last
  · obtain ⟨rfl, rfl, _⟩ : Status.transferFailed = st ∧ x = c ∧ 0 = d := by simpa using h
    exact .inl ⟨rfl, rest, ha⟩
  iterate 2
    obtain ⟨rfl, _⟩ : Status.latchFailed = st ∧ x = c ∧ 0 = d := by simpa using h
    exact .inr (.inl ⟨rfl, _, ha⟩)
  · obtain ⟨rfl, _⟩ : Status.ok = st ∧ 0 = c ∧ 0 = d := by simpa using h
    exact .inr (.inr ⟨rfl, rest, ha⟩)

/-- A failed transfer leaves the latch line and what the chips show as they were (R38, R82). -/
theorem writeBody_chain_of_transferErr {s : State} {e : Nat} {rest : List Answer} (ha : s.answers = .err e :: rest) :
    (writeBody s).chain = { s.chain with sr := .unknown } := by
  have h : writeBody s = (s.requestTransfer.takeAnswer rest).transferFailed e := by
    simpa [ha] using writeBody_cases s
  simp [h]

/-- From its own transfer on, a WRITE has the whole frame in the shift registers, and the chips show the old frame or
this one (R38, R39). -/
theorem writeBody_chain_of_transferOk {s : State} {rest : List Answer} (ha : s.answers = .ok :: rest) :
    (writeBody s).chain.sr = .holds (serialize s.cfg s.val) ∧
      ((writeBody s).chain.out = s.chain.out ∨ (writeBody s).chain.out = .holds (serialize s.cfg s.val)) := by
  rcases writeBody_cases s with ⟨h, _⟩ | ⟨_, e⟩ | ⟨_, e⟩ | ⟨_, _, h, _⟩ | ⟨_, _, _, e⟩ | ⟨_, _, _, e⟩ | ⟨_, _, e⟩
  · simp [ha] at h
  · simp [e]
  · simpa [e] using drawnOut_oldOrNew (.inl rfl) _
  · simp [ha] at h
  · simpa [e] using drawnOut_oldOrNew (.inl rfl) _
  · simpa [e] using drawnOut_oldOrNew (drawnOut_oldOrNew (.inl rfl) _) _
  · simpa [e] using loweredOut_oldOrNew (drawnOut_oldOrNew (.inl rfl) _) _ _

/-- The WRITE of which every request was answered `Ok` (R87). -/
theorem writeBody_of_allOk {s : State} {rest : List Answer} (ha : s.answers = .ok :: .ok :: .ok :: rest) :
    writeBody s = ((((s.requestTransfer.takeAnswer (.ok :: .ok :: rest)).transferDone.takeAnswer
      (.ok :: rest)).pulsed).takeAnswer rest).lowered := by
  simpa [ha] using writeBody_cases s

theorem writeBody_line_of_allOk {s : State} {rest : List Answer} (ha : s.answers = .ok :: .ok :: .ok :: rest) :
    (writeBody s).chain.line = .low := by
  simp [writeBody_of_allOk ha]

/-- A pulse that began from a low line has made the chips copy the frame (R39 (a)). -/
theorem writeBody_out_of_allOk {s : State} {rest : List Answer} (ha : s.answers = .ok :: .ok :: .ok :: rest)
    (hl : LineLow s) : (writeBody s).chain.out = .holds (serialize s.cfg s.val) := by
  obtain ⟨hlat, hline⟩ := hl
  simp [writeBody_of_allOk ha, hlat, hline]

/-! ## Which commands reach the chain -/

theorem exec_write_of_ready {s t : State} (hr : Ready s) (h : exec .write s = .next t) : t = writeBody s := by
  rw [exec_of_ready hr] at h
  cases h
  rfl

/-- Only WRITE touches the chain (R42). -/
theorem exec_chain {i : Instr} {s t : State} (hw : i ≠ .write) (h : exec i s = .next t) : t.chain = s.chain := by
  by_cases hd : i = .destroy
  · subst hd
    exact exec_keeps State.chain h rfl rfl
  · rw [(exec_alteredInBuffer hw hd h).1]

/-- Settles O31: the response gives the answers that led to it, and these what the pulse did to the chain. -/
theorem writeIsTheBarrier : Obligations.WriteIsTheBarrier := by
  refine ⟨fun s t hr hl h => ?_, fun i s t => exec_chain⟩
  obtain rfl := exec_write_of_ready hr h
  refine ⟨fun hok => ?_, fun e htf => ?_, fun e hlf => ?_⟩
  · obtain ⟨rest, ha⟩ := by simpa using writeBody_response hok
    exact writeBody_out_of_allOk ha hl
  · obtain ⟨rest, ha⟩ := by simpa using writeBody_response htf
    rw [writeBody_chain_of_transferErr ha]
  · obtain ⟨rest, ha⟩ := by simpa using writeBody_response hlf
    exact (writeBody_chain_of_transferOk ha).2

/-- Settles O32: from its transfer on, a WRITE only draws between the old frame and the new one. -/
theorem chipsShowTheOldOrTheNewFrame : Obligations.ChipsShowTheOldOrTheNewFrame := by
  intro s t rest hr ha h
  obtain rfl := exec_write_of_ready hr h
  obtain ⟨hsr, hout⟩ := writeBody_chain_of_transferOk ha
  refine ⟨hsr, hout, fun hok => ?_⟩
  obtain ⟨_, hall⟩ := by simpa using writeBody_response hok
  exact writeBody_line_of_allOk hall

end Sys2Proof.Machine
end

section
/-! SUPPORT. The encoding's family (30_encoding.md): the decoder and the encoder as inverses of each other, what a
step does with a legal and with an illegal word, the protocol of the event trace, and the ports. -/

namespace Sys2Proof

/-! ## The decoder, once -/

/-- Everything the decoder accepts, opcode by opcode, with the fields that must be 0 (R47, R49). -/
theorem decode_eq_ok_iff {w : CmdWord} {i : Instr} :
    decode w = .ok i ↔
      ((fieldOp w).toNat = 1 ∧ (fieldB w).toNat = 0 ∧ (fieldC w).toNat = 0 ∧
        i = .setChannel (fieldIdx w).toNat (fieldA w).toNat) ∨
      ((fieldOp w).toNat = 2 ∧
        i = .setRgb (fieldIdx w).toNat (fieldA w).toNat (fieldB w).toNat (fieldC w).toNat) ∨
      ((fieldOp w).toNat = 3 ∧ (fieldA w).toNat = 0 ∧ (fieldB w).toNat = 0 ∧ (fieldC w).toNat = 0 ∧
        i = .getChannel (fieldIdx w).toNat) ∨
      ((fieldOp w).toNat = 4 ∧ (fieldIdx w).toNat = 0 ∧ (fieldA w).toNat = 0 ∧ (fieldB w).toNat = 0 ∧
        (fieldC w).toNat = 0 ∧ i = .write) ∨
      ((fieldOp w).toNat = 5 ∧ (fieldIdx w).toNat = 0 ∧ (fieldA w).toNat = 0 ∧ (fieldB w).toNat = 0 ∧
        (fieldC w).toNat = 0 ∧ i = .destroy) := by
  unfold decode
  dsimp only
  split
  case h_2 h => simp [h, @eq_comm _ i]
  case h_6 => simp_all
  all_goals next h => simp [h, mustBeZero_ok, and_assoc, @eq_comm _ i]

/-- A word is packed again from the numbers in its fields (R46). -/
theorem packFields_of_toNat {w : CmdWord} {op idx a b c : Nat} (hop : (fieldOp w).toNat = op)
    (hidx : (fieldIdx w).toNat = idx) (ha : (fieldA w).toNat = a) (hb : (fieldB w).toNat = b)
    (hc : (fieldC w).toNat = c) :
    packFields (BitVec.ofNat 8 op) (BitVec.ofNat 24 idx) (BitVec.ofNat 16 a) (BitVec.ofNat 16 b)
      (BitVec.ofNat 16 c) = w := by
  subst hop hidx ha hb hc
  simpa using packFields_fields w

theorem encode_of_decode {w : CmdWord} {i : Instr} (h : decode w = .ok i) : encode i = w := by
  obtain ⟨ho, hb, hc, rfl⟩ | ⟨ho, rfl⟩ | ⟨ho, ha, hb, hc, rfl⟩ | ⟨ho, hi, ha, hb, hc, rfl⟩ |
    ⟨ho, hi, ha, hb, hc, rfl⟩ := decode_eq_ok_iff.1 h
  · exact packFields_of_toNat ho rfl rfl hb hc
  · exact packFields_of_toNat ho rfl rfl rfl rfl
  · exact packFields_of_toNat ho rfl ha hb hc
  · exact packFields_of_toNat ho hi ha hb hc
  · exact packFields_of_toNat ho hi ha hb hc

/-! What fits a field (R45, R48). -/

@[simp] theorem fitsIdx_iff {n : Nat} : fitsIdx n = true ↔ n < 2 ^ 24 := decide_eq_true_iff
@[simp] theorem fitsVal_iff {n : Nat} : fitsVal n = true ↔ n < 2 ^ 16 := decide_eq_true_iff

theorem fitsIdx_toNat (x : BitVec 24) : fitsIdx x.toNat = true := fitsIdx_iff.2 x.isLt
theorem fitsVal_toNat (x : BitVec 16) : fitsVal x.toNat = true := fitsVal_iff.2 x.isLt

/-- A command read from the fields of a word fits them (R48). -/
theorem wf_of_decode {w : CmdWord} {i : Instr} (h : decode w = .ok i) : i.wf = true := by
  obtain ⟨_, _, _, rfl⟩ | ⟨_, rfl⟩ | ⟨_, _, _, _, rfl⟩ | ⟨_, _, _, _, _, rfl⟩ | ⟨_, _, _, _, _, rfl⟩ :=
    decode_eq_ok_iff.1 h
  · simp only [Instr.wf, fitsIdx_toNat, fitsVal_toNat, Bool.and_true]
  · simp only [Instr.wf, fitsIdx_toNat, fitsVal_toNat, Bool.and_true]
  · exact fitsIdx_toNat _
  · rfl
  · rfl

/-- Settles O2: each row of `decode_eq_ok_iff` gives the fields back that the encoder packs. -/
theorem legalWordIsTheWordOfItsCommand : Obligations.LegalWordIsTheWordOfItsCommand :=
  fun _ _ h => ⟨encode_of_decode h, wf_of_decode h⟩

/-- A command that fits its fields is read back from its word, opcode by opcode (R46, R47, R48). -/
theorem decode_encode {i : Instr} (h : i.wf = true) : decode (encode i) = .ok i := by
  rw [decode_eq_ok_iff]
  cases i with
  | setChannel gi v =>
    obtain ⟨hi, hv⟩ : gi < 2 ^ 24 ∧ v < 2 ^ 16 := by simpa [Instr.wf] using h
    simp [encode]; omega
  | setRgb d r g b =>
    obtain ⟨⟨⟨hd, hr⟩, hg⟩, hb⟩ : ((d < 2 ^ 24 ∧ r < 2 ^ 16) ∧ g < 2 ^ 16) ∧ b < 2 ^ 16 := by
      simpa [Instr.wf] using h
    simp [encode]; omega
  | getChannel gi =>
    have hi : gi < 2 ^ 24 := fitsIdx_iff.1 h
    simp [encode]; omega
  | write => simp [encode]
  | destroy => simp [encode]

/-- Settles O1, by `decode_encode`: the fields of a packed word are the operands, cut where they fit. -/
theorem commandWordDecodesToItsCommand : Obligations.CommandWordDecodesToItsCommand :=
  fun _ => decode_encode

/-- Settles O6: the ten bytes are the word, and `decode_encode` reads it. -/
theorem tenBytesCarryACommand : Obligations.TenBytesCarryACommand := by
  refine ⟨fun i rest h => ?_, fun bs h => if_pos h⟩
  rw [decodeBytes_append, decode_encode h]

/-- Settles O5, by evaluating the decoder on the sixteen words. -/
theorem sampleWordsDecodeAsListed : Obligations.SampleWordsDecodeAsListed := by
  unfold Obligations.SampleWordsDecodeAsListed
  decide

end Sys2Proof

namespace Sys2Proof.Machine

/-! ## Values above MASK -/

theorem truncate_mod (c : Config) (v : Nat) : truncate c (v % 2 ^ c.bits) = truncate c v := by
  apply BitVec.eq_of_toNat_eq
  rw [truncate_toNat, truncate_toNat, Nat.mod_mod]

/-- The setters store the low `B` bits alone (R48, R63). -/
theorem bodyOf_setChannel_mod (i v : Nat) (s : State) :
    bodyOf (.setChannel i (v % 2 ^ s.cfg.bits)) s = bodyOf (.setChannel i v) s := by
  simp only [bodyOf, setChannelBody, State.writeEntry, truncate_mod]

theorem bodyOf_setRgb_mod (d r g b : Nat) (s : State) :
    bodyOf (.setRgb d (r % 2 ^ s.cfg.bits) (g % 2 ^ s.cfg.bits) (b % 2 ^ s.cfg.bits)) s =
      bodyOf (.setRgb d r g b) s := by
  simp only [bodyOf, setRgbBody, State.writeEntry, truncate_mod]

/-- `exec` tells two commands apart by their own pseudocode only (R59). -/
theorem exec_congr {i j : Instr} {s : State} (h : bodyOf i s = bodyOf j s) : exec i s = exec j s := by
  simp only [exec_eq_command, command, h]

/-- Settles O3: the fields are the quotients and remainders, and the setters look at the low bits alone. -/
theorem operandsAreTheFieldsReadUnsigned : Obligations.OperandsAreTheFieldsReadUnsigned := by
  refine ⟨fun w => ?_, fun s i v => (exec_congr (bodyOf_setChannel_mod i v s)).symm,
    fun s d r g b => (exec_congr (bodyOf_setRgb_mod d r g b s)).symm⟩
  simp only [← fieldOp_toNat, ← fieldIdx_toNat, ← fieldA_toNat, ← fieldB_toNat, ← fieldC_toNat]
  exact ⟨fun ho hb hc => decode_eq_ok_iff.2 (.inl ⟨ho, hb, hc, rfl⟩),
    fun ho => decode_eq_ok_iff.2 (.inr (.inl ⟨ho, rfl⟩)),
    fun ho ha hb hc => decode_eq_ok_iff.2 (.inr (.inr (.inl ⟨ho, ha, hb, hc, rfl⟩))),
    fun ho hi ha hb hc => decode_eq_ok_iff.2 (.inr (.inr (.inr (.inl ⟨ho, hi, ha, hb, hc, rfl⟩)))),
    fun ho hi ha hb hc => decode_eq_ok_iff.2 (.inr (.inr (.inr (.inr ⟨ho, hi, ha, hb, hc, rfl⟩)))),
    fun _ => wf_of_decode⟩

/-! ## Legal and illegal words -/

/-- Settles O9: the accepted state, field by field, is the one the statement writes out. -/
theorem stepExecutesTheDecodedCommand : Obligations.StepExecutesTheDecodedCommand :=
  fun _ _ _ _ _ hc hp hs hd => step_of_legal hc hp hs hd

/-- An illegal word in a ready block: its two events and the taking of the input are all that is new (R49). -/
theorem step_of_illegal_eq {s : State} {w : CmdWord} {as : List Answer} {rest : List HostInput} {e : Illegal}
    (hc : s.cfg.ok = true) (hp : s.phase = .idle) (hs : s.script = .command w as :: rest)
    (hd : decode w = .error e) :
    step s = .next { s with
      script := rest
      answers := as
      trace := s.trace ++ [.cmd w, .rsp .illegalCommand 0 0] } := by
  rw [step_of_illegal hc hp hs hd]
  simp [State.raise, State.respond, State.emit, State.accept, hp]

theorem exists_error_of_illegal {w : CmdWord} (h : ¬ ∃ i, decode w = .ok i) : ∃ e, decode w = .error e := by
  cases hd : decode w with
  | ok i => exact absurd ⟨i, hd⟩ h
  | error e => exact ⟨e, rfl⟩

/-- Settles O4: `decode_eq_ok_iff` with the command forgotten, and the step of an illegal word. -/
theorem wordIsLegalExactlyWhenStated : Obligations.WordIsLegalExactlyWhenStated := by
  refine ⟨fun w => ?_, ?_, fun s w as rest hc hp hs hill => ?_⟩
  · simp only [decode_eq_ok_iff, fieldOp_toNat, fieldIdx_toNat, fieldA_toNat, fieldB_toNat, fieldC_toNat,
      exists_or, exists_and_left, exists_eq, and_true]
  · rintro ⟨i, h⟩
    have h0 : decode 0 = .error (.unknownOpcode 0) := by decide
    rw [h0] at h
    cases h
  · obtain ⟨e, he⟩ := exists_error_of_illegal hill
    exact step_of_illegal_eq hc hp hs he

/-! ## A busy block -/

@[simp] theorem wait_trace (s : State) : s.wait.trace = s.trace := by
  rcases wait_cases s with h | ⟨_, h⟩ <;> simp [h]
@[simp] theorem wait_phase (s : State) : s.wait.phase = s.phase := by
  rcases wait_cases s with h | ⟨_, h⟩ <;> simp [h]
@[simp] theorem wait_script (s : State) : s.wait.script = s.script := by
  rcases wait_cases s with h | ⟨_, h⟩ <;> simp [h]

/-- The trace goes on from `u`, and no word has been accepted since (R56). -/
def NoWordSince (u : List Event) (s : State) : Prop := ∃ es, s.trace = u ++ es ∧ ∀ w, Event.cmd w ∉ es

theorem noWordSince_of_trace {s t : State} (h : t.trace = s.trace) : NoWordSince s.trace t :=
  ⟨[], by simp [h], by simp⟩

theorem NoWordSince.append {u : List Event} {s t : State} (h : NoWordSince u s) {es : List Event}
    (ht : t.trace = s.trace ++ es) (he : ∀ w, Event.cmd w ∉ es) : NoWordSince u t := by
  obtain ⟨fs, hs, hf⟩ := h
  exact ⟨fs ++ es, by rw [ht, hs, List.append_assoc], by simp [hf, he]⟩

/-- No transition of the sequencer accepts a word. -/
theorem NoWordSince.advance {u : List Event} {s : State} (h : NoWordSince u s) : NoWordSince u s.advance := by
  rcases advance_cases s with e | ⟨_, k, _, e⟩ | ⟨_, _, e⟩ | ⟨_, r, _, e⟩ | ⟨_, x, r, _, e⟩ | ⟨_, r, _, e⟩ |
    ⟨_, x, r, _, e⟩ | ⟨_, r, _, e⟩ | ⟨_, x, r, _, e⟩ <;> rw [e]
  · exact h
  · exact h
  · exact h.append (es := [.held, .low]) (by simp) (by simp)
  · exact h.append (es := [.xferAns .ok, .high]) (by simp) (by simp)
  · exact h.append (es := [.xferAns (.err x), .rsp .transferFailed x 0]) (by simp) (by simp)
  · exact h.append (es := [.highAns .ok]) (by simp) (by simp)
  · exact h.append (es := [.highAns (.err x), .rsp .latchFailed x 0]) (by simp) (by simp)
  · exact h.append (es := [.lowAns .ok, .rsp .ok 0 0]) (by simp) (by simp)
  · exact h.append (es := [.lowAns (.err x), .rsp .latchFailed x 0]) (by simp) (by simp)

theorem noWordSince_settle (s : State) : NoWordSince s.trace s.settle :=
  settle_keeps (P := NoWordSince s.trace) (fun _ => NoWordSince.advance) (noWordSince_of_trace rfl)

/-- A busy block that is not reset leaves the script where it is and accepts no word (R56). -/
theorem resume_accepts_nothing {s : State} (hs : ∀ b rest, s.script ≠ .reset b :: rest) :
    s.resume.script = s.script ∧ NoWordSince s.trace s.resume := by
  rcases resume_cases s with ⟨b, rest, h, _⟩ | ⟨_, ⟨_, _, h⟩ | ⟨_, h⟩⟩
  · exact absurd h (hs b rest)
  · rw [h]
    exact ⟨wait_script s, noWordSince_of_trace (wait_trace s)⟩
  · rw [h]
    exact ⟨settle_script s, noWordSince_settle s⟩

/-- Settles O10: `exec` by its prologue; the step of a busy block is `resume`. -/
theorem busyBlockAcceptsNoCommand : Obligations.BusyBlockAcceptsNoCommand := by
  refine ⟨fun i s hc hp => ?_, fun s t w as rest hp hs h => ?_⟩
  · rw [exec_eq_command, command_of_busy hc hp]
  · obtain ⟨hc, _⟩ := step_cases h
    rw [step_of_busy hc hp] at h
    cases h
    obtain ⟨hscript, es, ht, hes⟩ := resume_accepts_nothing (s := s) (by simp [hs])
    exact ⟨hscript, by simpa [ht] using hes⟩

/-! ## The protocol of the trace -/

/-- Once a trace keeps the protocol up to `p`, the events that follow are read from there. -/
theorem progress_append {t : List Event} {p : Progress} (h : progress t = some p) (es : List Event) :
    progress (t ++ es) = es.foldl (fun p e => p.bind (Progress.next e)) (some p) := by
  rw [progress, List.foldl_append, ← progress, h]

/-- Every row of the table of R94 goes along an edge of the protocol. -/
theorem traceKeepsProtocol_advance {s : State} (h : TraceKeepsProtocol s) : TraceKeepsProtocol s.advance := by
  unfold TraceKeepsProtocol at h
  rcases advance_cases s with e | ⟨_, k, _, e⟩ | ⟨hp, _, e⟩ | ⟨hp, r, _, e⟩ | ⟨hp, x, r, _, e⟩ | ⟨hp, r, _, e⟩ |
    ⟨hp, x, r, _, e⟩ | ⟨hp, r, _, e⟩ | ⟨hp, x, r, _, e⟩ <;> rw [e]
  · exact h
  · exact h
  all_goals
    rw [hp] at h
    simp [TraceKeepsProtocol, State.takeAnswer, progress_append h, Progress.ofPhase, Progress.next]

theorem traceKeepsProtocol_settle {s : State} (h : TraceKeepsProtocol s) : TraceKeepsProtocol s.settle :=
  settle_keeps (P := TraceKeepsProtocol) (fun _ => traceKeepsProtocol_advance) h

/-- The block has just accepted a word: the trace stands at the place `accepted` of the protocol (R56). -/
def JustAccepted (s : State) : Prop := progress s.trace = some .accepted ∧ s.phase = .idle

theorem justAccepted_accept {s : State} (h : TraceKeepsProtocol s) (hp : s.phase = .idle) (w : CmdWord)
    (as : List Answer) (rest : List HostInput) : JustAccepted (s.accept w as rest) := by
  rw [TraceKeepsProtocol, hp] at h
  refine ⟨?_, hp⟩
  rw [State.accept_trace, progress_append h]
  rfl

/-! The ways a command goes on from there. -/

/-- A command that made no request ends with one of its plain responses (R52, R96). -/
theorem JustAccepted.plainEnd {s t : State} (h : JustAccepted s) {st : Status} {c : Nat} {d : Value}
    (ht : t.trace = s.trace ++ [.rsp st c d]) (hp : t.phase = .idle) (he : plainEnd st c = true) :
    TraceKeepsProtocol t := by
  rw [TraceKeepsProtocol, ht, hp, progress_append h.1]
  simp [Progress.next, Progress.ofPhase, he]

theorem JustAccepted.requestTransfer {s : State} (h : JustAccepted s) : TraceKeepsProtocol s.requestTransfer := by
  rw [TraceKeepsProtocol, State.requestTransfer_trace, progress_append h.1]
  rfl

theorem JustAccepted.destroyBody {s : State} (h : JustAccepted s) : TraceKeepsProtocol (destroyBody s) := by
  obtain ⟨ht, hp⟩ := h
  simp [TraceKeepsProtocol, Machine.destroyBody, hp, progress_append ht, Progress.next, Progress.ofPhase]

theorem JustAccepted.bodyOf {s : State} (h : JustAccepted s) (i : Instr) : TraceKeepsProtocol (bodyOf i s) := by
  have hp : s.phase = .idle := h.2
  cases i with
  | setChannel i v =>
    rcases setChannelBody_cases i v s with e | e <;> rw [Machine.bodyOf, e]
    exacts [h.plainEnd rfl rfl rfl, h.plainEnd rfl hp rfl]
  | setRgb d r g b =>
    rcases setRgbBody_cases d r g b s with e | e <;> rw [Machine.bodyOf, e]
    exacts [h.plainEnd rfl rfl rfl, h.plainEnd rfl hp rfl]
  | getChannel i =>
    rcases getChannelBody_cases i s with e | e <;> rw [Machine.bodyOf, e]
    exacts [h.plainEnd rfl rfl rfl, h.plainEnd rfl hp rfl]
  | write => exact traceKeepsProtocol_settle h.requestTransfer
  | destroy => exact h.destroyBody

theorem JustAccepted.exec {s t : State} (h : JustAccepted s) {i : Instr} (he : exec i s = .next t) :
    TraceKeepsProtocol t := by
  obtain ⟨_, ⟨hp, _⟩ | ⟨_, _, rfl⟩ | ⟨_, _, rfl⟩⟩ := exec_cases he
  exacts [absurd h.2 hp, h.plainEnd rfl rfl rfl, h.bodyOf i]

/-! The whole step. -/

/-- After a reset the trace is empty and the block idle: the protocol begins again (R27, R111). -/
theorem traceKeepsProtocol_doReset (b : Bool) (s : State) : TraceKeepsProtocol (s.doReset b) := rfl

theorem traceKeepsProtocol_wait {s : State} (h : TraceKeepsProtocol s) : TraceKeepsProtocol s.wait := by
  rw [TraceKeepsProtocol, wait_trace, wait_phase]
  exact h

theorem traceKeepsProtocol_resume {s : State} (h : TraceKeepsProtocol s) : TraceKeepsProtocol s.resume := by
  rcases resume_cases s with ⟨b, rest, _, e⟩ | ⟨_, ⟨_, _, e⟩ | ⟨_, e⟩⟩ <;> rw [e]
  exacts [traceKeepsProtocol_doReset b _, traceKeepsProtocol_wait h, traceKeepsProtocol_settle h]

/-- Settles O47: each transition of the sequencer and each command follows the automaton from where it stands. -/
theorem everyStepKeepsTheProtocol : Obligations.EveryStepKeepsTheProtocol := by
  intro s t h he
  obtain ⟨_, ⟨_, rfl⟩ | ⟨hp, ⟨_, rfl⟩ | ⟨b, rest, _, rfl⟩ | ⟨rest, _, rfl⟩ |
    ⟨w, as, rest, _, ⟨i, _, he⟩ | ⟨e, _, rfl⟩⟩⟩⟩ := step_cases he
  · exact traceKeepsProtocol_resume h
  · exact h
  · exact traceKeepsProtocol_doReset b _
  · exact h
  · exact (justAccepted_accept h hp w as rest).exec he
  · exact (justAccepted_accept h hp w as rest).plainEnd rfl rfl rfl

/-! ## The ports -/

/-- Settles O52: by the table of R52, read in both directions. -/
theorem statusCodesAreToldApart : Obligations.StatusCodesAreToldApart := by
  refine ⟨⟨rfl, rfl, rfl, rfl, rfl, rfl⟩, fun st => ?_, fun c => ?_⟩
  · cases st <;> rfl
  · revert c
    decide

theorem txBytes_length (f : Frame) : (txBytes f).length = f.length := by
  induction f with
  | nil => rfl
  | cons b f ih => rw [txBytes_cons, List.length_cons, ih, List.length_cons]

/-- The byte at each offset of the stream, with `tx_last` at the last offset only (R57). -/
theorem txBytes_getElem? (f : Frame) (k : Nat) :
    (txBytes f)[k]? = f[k]?.map fun b => PortSignal.tx b (decide (k + 1 = f.length)) := by
  induction f generalizing k with
  | nil => rfl
  | cons c f ih =>
    rw [txBytes_cons]
    cases k with
    | zero => cases f <;> simp
    | succ k => simp [ih]

/-- Settles O53, by `txBytes_getElem?`. -/
theorem transferStreamsTheFrame : Obligations.TransferStreamsTheFrame :=
  fun f => ⟨txBytes_length f, fun k b h => by rw [txBytes_getElem?, h]; rfl⟩

/-- What the collaborator takes is a first part of the bytes, whatever it does (R57). -/
theorem transferPort_prefix (is : List TxInput) (f : Frame) : (transferPort is f).1 <+: txBytes f := by
  induction is generalizing f with
  | nil => exact List.nil_prefix
  | cons i is ih =>
    cases i with
    | notReady => exact ih f
    | ready =>
      cases f with
      | nil => exact ih []
      | cons b f => rw [transferPort, txBytes_cons]; exact (List.prefix_cons_inj _).2 (ih f)
    | done a => exact List.nil_prefix

/-- An `Ok` of a collaborator that keeps its duty comes after all the bytes (R57). -/
theorem transferPort_of_ok {is : List TxInput} {f : Frame} (hk : keepsTransfer is f = true)
    (ha : (transferPort is f).2 = some .ok) : (transferPort is f).1 = txBytes f := by
  induction is generalizing f with
  | nil => cases ha
  | cons i is ih =>
    cases i with
    | notReady => exact ih hk ha
    | ready =>
      cases f with
      | nil => exact ih hk ha
      | cons b f => rw [transferPort, txBytes_cons, ih (f := f) hk ha]
    | done a =>
      obtain rfl : a = .ok := Option.some.inj ha
      obtain rfl : f = [] := List.isEmpty_iff.1 hk
      rfl

/-- Nothing is taken after the answer, which is the transfer's (R57). -/
theorem transferPort_append_done {is : List TxInput} {f : Frame} (h : (transferPort is f).2 = none)
    (js : List TxInput) (a : Answer) :
    transferPort (is ++ .done a :: js) f = ((transferPort is f).1, some a) := by
  induction is generalizing f with
  | nil => rfl
  | cons i is ih =>
    cases i with
    | notReady => exact ih h
    | ready =>
      cases f with
      | nil => exact ih h
      | cons b f => simp only [List.cons_append, transferPort, ih h]
    | done a' => cases h

/-- The events of a WRITE whose transfer is refused (R82, R87). -/
theorem writeBody_trace_of_transferErr {s : State} {e : Nat} {rest : List Answer} (ha : s.answers = .err e :: rest) :
    (writeBody s).trace =
      s.trace ++ [.xfer (serialize s.cfg s.val), .xferAns (.err e), .rsp .transferFailed e 0] := by
  have h : writeBody s = (s.requestTransfer.takeAnswer rest).transferFailed e := by
    simpa [ha] using writeBody_cases s
  simp [h]

/-- Settles O54: the stream by what the collaborator does, and the ports of the three events of a refused WRITE. -/
theorem answerStopsTheByteStream : Obligations.AnswerStopsTheByteStream := by
  refine ⟨fun is f => ⟨_, List.prefix_iff_eq_take.1 (transferPort_prefix is f)⟩, fun is f => transferPort_of_ok,
    fun is js a f h => transferPort_append_done h js a, fun s t is e rest hr ha h => ?_⟩
  obtain rfl := exec_write_of_ready hr h
  rw [writeBody_trace_of_transferErr ha, List.drop_left]
  rfl

end Sys2Proof.Machine
end

section
/-! SUPPORT. The buffer commands' family (40_buffer_ops.md): the whole next state of SET_CHANNEL, SET_RGB and
GET_CHANNEL, the truncation law, and the order in which an accepted word is handled. -/

namespace Sys2Proof.Machine

/-! ## Operands and indices -/

/-- What a setter stores, in the arithmetic of R63. -/
theorem truncate_eq_ofNat_mod (c : Config) (v : Nat) : truncate c v = BitVec.ofNat 16 (v % 2 ^ c.bits) := by
  rw [truncate, and_mask]

theorem truncate_toNat_eq_and (c : Config) (v : Nat) : (truncate c v).toNat = v &&& c.mask := by
  rw [truncate_toNat, and_mask]

/-- An admitted configuration has its three offsets inside a chip (R20). -/
theorem rgbOff_lt_channels {c : Config} (h : c.ok = true) :
    c.rgbOff.r < c.channels ∧ c.rgbOff.g < c.channels ∧ c.rgbOff.b < c.channels := by
  simp only [Config.ok, Bool.and_eq_true, decide_eq_true_eq] at h
  obtain ⟨⟨⟨⟨hr, hg⟩, hb⟩, _⟩, _⟩ := h
  exact ⟨hr, hg, hb⟩

/-- The index of a local channel is in range exactly when its device is (R31, R64). -/
theorem globalIndex_lt_total_iff {c : Config} {d o : Nat} (ho : o < c.channels) :
    globalIndex c d o < c.total ↔ d < c.n := by
  rw [globalIndex, Config.total, ← Nat.div_lt_iff_lt_mul (channels_pos c), Nat.mul_comm,
    Nat.mul_add_div (channels_pos c), Nat.div_eq_of_lt ho, Nat.add_zero]

theorem outOfRange_iff {c : Config} {i : Nat} : outOfRange c i = true ↔ ¬ i < c.total := by
  simp [outOfRange]

/-! ## The commands' own pseudocode, with its guard -/

/-- An error raised by an idle block adds its response and nothing else (R97). -/
theorem raise_of_idle {s : State} (hp : s.phase = .idle) (st : Status) (c : Nat) :
    s.raise st c = { s with trace := s.trace ++ [.rsp st c 0] } := by
  rw [State.raise, ← hp]
  rfl

theorem setChannelBody_eq (i v : Nat) (s : State) :
    setChannelBody i v s =
      if i < s.cfg.total then (s.writeEntry i v).respond .ok 0 0 else s.raise .indexOutOfRange 0 := by
  simp only [setChannelBody, outOfRange_iff, ite_not]

theorem getChannelBody_eq (i : Nat) (s : State) :
    getChannelBody i s =
      if i < s.cfg.total then s.respond .ok 0 (s.readEntry i) else s.raise .indexOutOfRange 0 := by
  simp only [getChannelBody, outOfRange_iff, ite_not]

/-- With admitted offsets the three range checks of SET_RGB are one check of the device (R61, R64). -/
theorem setRgbBody_eq {s : State} (hc : s.cfg.ok = true) (d r g b : Nat) :
    setRgbBody d r g b s =
      if d < s.cfg.n then
        (((s.writeEntry (globalIndex s.cfg d s.cfg.rgbOff.r) r).writeEntry
          (globalIndex s.cfg d s.cfg.rgbOff.g) g).writeEntry
          (globalIndex s.cfg d s.cfg.rgbOff.b) b).respond .ok 0 0
      else s.raise .indexOutOfRange 0 := by
  obtain ⟨hr, hg, hb⟩ := rgbOff_lt_channels hc
  simp only [setRgbBody, rgbIndices, Bool.or_eq_true, outOfRange_iff, globalIndex_lt_total_iff hr,
    globalIndex_lt_total_iff hg, globalIndex_lt_total_iff hb, or_self, ite_not]

/-! ## The whole next state of each buffer command -/

/-- Settles O17: the guard decides between the one truncated write and the response alone. -/
theorem setChannelStoresTheTruncatedValue : Obligations.SetChannelStoresTheTruncatedValue := by
  intro s i v hr
  rw [exec_of_ready hr, bodyOf, setChannelBody_eq, raise_of_idle hr.2.1, ← truncate_eq_ofNat_mod]
  rfl

/-- Settles O18: the three checks are one, and the three writes are made in the order red, green, blue. -/
theorem setRgbStoresThreeChannels : Obligations.SetRgbStoresThreeChannels := by
  intro s d r g b hr
  rw [exec_of_ready hr, bodyOf, setRgbBody_eq hr.1, raise_of_idle hr.2.1]
  simp only [← truncate_eq_ofNat_mod]
  rfl

/-- Settles O19: a response with the entry, which a well-formed buffer bounds. -/
theorem getChannelRespondsTheEntry : Obligations.GetChannelRespondsTheEntry := by
  intro s i hr
  refine ⟨?_, fun hw => entry_le_mask hw i⟩
  rw [exec_of_ready hr, bodyOf, getChannelBody_eq, raise_of_idle hr.2.1]
  rfl

/-! ## Reading back -/

theorem entry_set_self {val : List Value} {i : Nat} (hi : i < val.length) (x : Value) :
    entry (val.set i x) i = x := by
  rw [entry_set, if_pos ⟨rfl, hi⟩]

theorem entry_set_of_ne {val : List Value} {i j : Nat} (h : j ≠ i) (x : Value) :
    entry (val.set i x) j = entry val j := by
  rw [entry_set, if_neg fun hij => h hij.1]

/-- Truncating twice is truncating once (R63). -/
theorem truncate_truncate (c : Config) (v : Nat) : truncate c (truncate c v).toNat = truncate c v := by
  rw [truncate_toNat, truncate_mod]

/-- The three entries after SET_RGB's writes at different indices (R61). -/
theorem entry_set_set_set {val : List Value} {i j k : Nat} (hi : i < val.length) (hj : j < val.length)
    (hk : k < val.length) (hij : i ≠ j) (hik : i ≠ k) (hjk : j ≠ k) (x y z : Value) :
    entry (((val.set i x).set j y).set k z) i = x ∧ entry (((val.set i x).set j y).set k z) j = y ∧
      entry (((val.set i x).set j y).set k z) k = z := by
  refine ⟨?_, ?_, entry_set_self (by simpa) z⟩
  · rw [entry_set_of_ne hik, entry_set_of_ne hij, entry_set_self hi]
  · rw [entry_set_of_ne hjk, entry_set_self (by simpa)]

/-- SET_CHANNEL and then GET_CHANNEL of the same channel: the response is the truncated value (R63). -/
theorem getChannel_after_setChannel {s : State} {i : Nat} (hr : Ready s) (hw : bufferWf s.cfg s.val = true)
    (hi : i < s.cfg.total) (v : Nat) :
    ∃ t u : State, exec (.setChannel i v) s = .next t ∧ exec (.getChannel i) t = .next u ∧
      u.trace = t.trace ++ [.rsp .ok 0 (truncate s.cfg v)] := by
  have hl : i < s.val.length := (bufferWf_iff.1 hw).1 ▸ hi
  refine ⟨(s.writeEntry i v).respond .ok 0 0, _, ?_, exec_of_ready (by exact hr) _, ?_⟩
  · rw [exec_of_ready hr, bodyOf, setChannelBody_eq, if_pos hi]
  · rw [bodyOf, getChannelBody_eq, if_pos (by exact hi)]
    simp [State.readEntry, entry_set_self hl]

/-- SET_RGB at different offsets: each of the three entries holds its own truncated value (R61, R63). -/
theorem entry_after_setRgb {s : State} {d : Nat} (hr : Ready s) (hw : bufferWf s.cfg s.val = true)
    (hd : d < s.cfg.n) (hrg : s.cfg.rgbOff.r ≠ s.cfg.rgbOff.g) (hrb : s.cfg.rgbOff.r ≠ s.cfg.rgbOff.b)
    (hgb : s.cfg.rgbOff.g ≠ s.cfg.rgbOff.b) (r g b : Nat) :
    ∃ t : State, exec (.setRgb d r g b) s = .next t ∧
      entry t.val (globalIndex s.cfg d s.cfg.rgbOff.r) = truncate s.cfg r ∧
      entry t.val (globalIndex s.cfg d s.cfg.rgbOff.g) = truncate s.cfg g ∧
      entry t.val (globalIndex s.cfg d s.cfg.rgbOff.b) = truncate s.cfg b := by
  obtain ⟨hor, hog, hob⟩ := rgbOff_lt_channels hr.1
  have inBuffer {o : Nat} (ho : o < s.cfg.channels) : globalIndex s.cfg d o < s.val.length :=
    (bufferWf_iff.1 hw).1 ▸ (globalIndex_lt_total_iff ho).2 hd
  have apart {o p : Nat} (h : o ≠ p) : globalIndex s.cfg d o ≠ globalIndex s.cfg d p :=
    fun he => h (Nat.add_left_cancel he)
  refine ⟨_, exec_of_ready hr _, ?_⟩
  rw [bodyOf, setRgbBody_eq hr.1, if_pos hd]
  exact entry_set_set_set (inBuffer hor) (inBuffer hog) (inBuffer hob) (apart hrg) (apart hrb) (apart hgb) _ _ _

/-- Settles O20: what the setters leave is the truncated value, read in each of its forms. -/
theorem readBackYieldsTheTruncatedValue : Obligations.ReadBackYieldsTheTruncatedValue := by
  refine ⟨fun s i v hr hw hi => ?_, fun s d r g b hr hw hd hrg hrb hgb => ?_, truncate_truncate⟩
  · obtain ⟨t, u, ht, hu, htr⟩ := getChannel_after_setChannel hr hw hi v
    exact ⟨t, u, ht, hu, _, htr, truncate_toNat_eq_and _ _, truncate_toNat _ _⟩
  · obtain ⟨t, ht, er, eg, eb⟩ := entry_after_setRgb hr hw hd hrg hrb hgb r g b
    have stored {x : Value} {v : Nat} (h : x = truncate s.cfg v) : x.toNat = v &&& s.cfg.mask :=
      h ▸ truncate_toNat_eq_and s.cfg v
    exact ⟨t, ht, stored er, stored eg, stored eb⟩

/-! ## The order in which a word is handled -/

/-- A destroyed block answers `Destroyed` to every command, whatever its operands are (R59, R102). -/
theorem exec_of_destroyed {s : State} (hc : s.cfg.ok = true) (hp : s.phase = .idle) (hl : s.life = .destroyed)
    (i : Instr) : exec i s = .next { s with trace := s.trace ++ [.rsp .destroyed 0 0] } := by
  rw [exec_eq_command, command_of_destroyed hc hp hl, raise_of_idle hp]

/-- Settles O13: legality is looked at by the step, `life` by the prologue, and then the command runs. -/
theorem wordsAreHandledInTheStatedOrder : Obligations.WordsAreHandledInTheStatedOrder := by
  intro s w as rest hc hp hs u
  refine ⟨fun e hd => step_of_illegal_eq hc hp hs hd, fun i hd hl => ?_,
    fun i hd hl => ⟨step_of_legal hc hp hs hd, hc, hp, hl⟩⟩
  rw [step_of_legal hc hp hs hd, exec_of_destroyed (by exact hc) (by exact hp) (by exact hl)]
  simp [State.accept, State.emit, u]

end Sys2Proof.Machine
end

section
/-! SUPPORT. The serializer's family (41_serializer.md): where the chip blocks, the control words and the entries stand
in a frame, read bit by bit and byte by byte, and the statements on the frame. -/

namespace Sys2Proof.Machine

/-! ## The sizes of the two variants (R8, R9) -/

theorem sizes_of_twelveBit {c : Config} (hv : c.variant = .twelveBit24Channel) :
    c.bits = 12 ∧ c.channels = 24 ∧ c.dataBytes = 36 := by
  simp [Config.dataBytes, Config.bits, Config.channels, hv]

theorem sizes_of_sixteenBit {c : Config} (hv : c.variant = .sixteenBit12Channel) :
    c.bits = 16 ∧ c.channels = 12 ∧ c.dataBytes = 24 := by
  simp [Config.dataBytes, Config.bits, Config.channels, hv]

/-! ## Where the chip blocks stand -/

/-- Of lists of length `m` set one behind another, the `k`-th stands at offset `k * m`. -/
theorem take_drop_flatMap {α β : Type} {f : α → List β} {m : Nat} (hf : ∀ a, (f a).length = m) (l : List α)
    {k : Nat} (hk : k < l.length) : ((l.flatMap f).drop (k * m)).take m = f l[k] := by
  have split : l.flatMap f = (l.take k).flatMap f ++ (f l[k] ++ (l.drop (k + 1)).flatMap f) := by
    rw [← List.flatMap_cons, ← List.drop_eq_getElem_cons hk, ← List.flatMap_append, List.take_append_drop]
  have before : ((l.take k).flatMap f).length = k * m := by
    rw [flatMap_length hf, List.length_take_of_le hk.le]
  rw [split, List.drop_left' before, List.take_left' (hf _)]

@[simp] theorem serialize_length (c : Config) (val : List Value) : (serialize c val).length = c.frameBytes := by
  rw [serialize, flatMap_length (chipBlock_length c val), List.length_reverse, List.length_range, Config.frameBytes]

theorem take_drop_serialize {c : Config} {d : Nat} (val : List Value) (hd : d < c.n) :
    ((serialize c val).drop (blockStart c d)).take c.blockBytes = chipBlock c val d := by
  have h := take_drop_flatMap (chipBlock_length c val) (List.range c.n).reverse (k := c.n - 1 - d) (by simp; omega)
  rwa [List.getElem_reverse, List.getElem_range, List.length_range, show c.n - 1 - (c.n - 1 - d) = d by omega] at h

theorem getD_serialize_block {c : Config} {d i : Nat} (val : List Value) (hd : d < c.n) (hi : i < c.blockBytes) :
    (serialize c val).getD (blockStart c d + i) 0 = (chipBlock c val d).getD i 0 := by
  simp [← take_drop_serialize val hd, List.getD_eq_getElem?_getD, hi]

theorem lineBit_serialize_block {c : Config} {d q : Nat} (val : List Value) (hd : d < c.n)
    (hq : q < 8 * c.blockBytes) :
    lineBit (serialize c val) (8 * blockStart c d + q) = lineBit (chipBlock c val d) q := by
  rw [lineBit, show (8 * blockStart c d + q) / 8 = blockStart c d + q / 8 by omega,
    show (8 * blockStart c d + q) % 8 = q % 8 by omega, getD_serialize_block val hd (by omega), lineBit]

/-- Bit `i` of frame byte `m` is the line bit `8 m + 7 - i`. -/
theorem getLsbD_getD (f : Frame) (m : Nat) {i : Nat} (hi : i < 8) :
    (f.getD m 0).getLsbD i = lineBit f (8 * m + (7 - i)) := by
  rw [lineBit, show (8 * m + (7 - i)) / 8 = m by omega, show 7 - (8 * m + (7 - i)) % 8 = i by omega]

/-- The device in whose chip block frame bit `p` lies (R66). -/
def deviceOf (c : Config) (p : Nat) : Nat := c.n - 1 - p / (8 * c.blockBytes)

/-- The position of frame bit `p` in that chip block (R66). -/
def blockBit (c : Config) (p : Nat) : Nat := p % (8 * c.blockBytes)

/-- `deviceOf` and `blockBit` say where a bit inside the frame is. -/
theorem frame_position {c : Config} {p : Nat} (hp : p < 8 * c.frameBytes) :
    deviceOf c p < c.n ∧ blockBit c p < 8 * c.blockBytes ∧ 8 * blockStart c (deviceOf c p) + blockBit c p = p := by
  have hm : 0 < 8 * c.blockBytes := Nat.pos_of_ne_zero fun h => by
    simp [Config.frameBytes, show c.blockBytes = 0 by omega] at hp
  have hk : p / (8 * c.blockBytes) < c.n :=
    Nat.div_lt_of_lt_mul (by rwa [Nat.mul_assoc, Nat.mul_comm c.blockBytes])
  refine ⟨(Nat.sub_le _ _).trans_lt (Nat.sub_one_lt_of_lt hk), Nat.mod_lt _ hm, ?_⟩
  rw [blockStart, deviceOf, Nat.sub_sub_self (Nat.le_sub_one_of_lt hk), Nat.mul_left_comm,
    Nat.mul_comm _ (8 * c.blockBytes), blockBit, Nat.div_add_mod]

/-- Settles O36: a position of the frame lies in one chip block, and there the two forms agree. -/
theorem blockFormIsTheBitForm : Obligations.BlockFormIsTheBitForm := by
  intro c val p hp
  obtain ⟨hd, hq, hpos⟩ := frame_position hp
  calc lineBit (serialize c val) p
      = lineBit (serialize c val) (8 * blockStart c (deviceOf c p) + blockBit c p) := by rw [hpos]
    _ = lineBit (chipBlock c val (deviceOf c p)) (blockBit c p) := lineBit_serialize_block val hd hq
    _ = frameBit c val p := lineBit_chipBlock c val _ hq

/-- Settles O37: the chip blocks are all of one length. -/
theorem frameHasItsLength : Obligations.FrameHasItsLength := by
  intro c val
  have hl : (serialize c val).length = (c.hdr.length + c.dataBytes) * c.n := by
    rw [serialize_length, Nat.mul_comm]
    rfl
  refine ⟨serialize_length c val, fun hv hh => ?_, fun hv => ?_⟩
  · obtain ⟨_, _, hD⟩ := sizes_of_twelveBit hv
    rw [hl, hD, hh, List.length_nil]
  · obtain ⟨_, _, hD⟩ := sizes_of_sixteenBit hv
    rw [hl, hD]

/-- Settles O38: device `d` is number `N - 1 - d` of the chip blocks. -/
theorem chipBlocksStandInDescendingOrder : Obligations.ChipBlocksStandInDescendingOrder :=
  fun _ val _ => take_drop_serialize val

/-! ## Where the entries stand (R76) -/

theorem lineBit_serialize_hdr {c : Config} {d q : Nat} (val : List Value) (hd : d < c.n) (hq : q < 8 * c.hdrBytes) :
    lineBit (serialize c val) (8 * blockStart c d + q) = lineBit c.hdr q := by
  have hq' : q < 8 * c.blockBytes := by unfold Config.blockBytes; omega
  rw [lineBit_serialize_block val hd hq', lineBit_chipBlock c val d hq', if_pos hq, lineBit]

/-- Bit `r` of the channel data of device `d` in the frame. -/
theorem lineBit_serialize_data {c : Config} {d r : Nat} (val : List Value) (hd : d < c.n) (hr : r < 8 * c.dataBytes) :
    lineBit (serialize c val) (8 * dataStart c d + r) =
      (entry val (globalIndex c d (r / c.bits))).getLsbD (c.bits - 1 - r % c.bits) := by
  have hq : 8 * c.hdrBytes + r < 8 * c.blockBytes := by unfold Config.blockBytes; omega
  rw [show 8 * dataStart c d + r = 8 * blockStart c d + (8 * c.hdrBytes + r) by unfold dataStart; omega,
    lineBit_serialize_block val hd hq, lineBit_chipBlock c val d hq, if_neg (by omega), Nat.add_sub_cancel_left]

/-- The bits of local channel `o` lie within the channel data. -/
theorem channelBit_lt {c : Config} {o j : Nat} (ho : o < c.channels) (hj : j < c.bits) :
    c.bits * o + j < 8 * c.dataBytes := by
  rw [← channels_mul_bits, Nat.mul_comm c.channels]
  calc c.bits * o + j < c.bits * (o + 1) := by rw [Nat.mul_succ]; omega
    _ ≤ c.bits * c.channels := Nat.mul_le_mul_left _ ho

/-- Bit `j` of the `B` frame bits of an entry, the most significant first. -/
theorem lineBit_serialize_entry {c : Config} {d o j : Nat} (val : List Value) (hd : d < c.n) (ho : o < c.channels)
    (hj : j < c.bits) :
    lineBit (serialize c val) (entryBit c d o + j) = (entry val (globalIndex c d o)).getLsbD (c.bits - 1 - j) := by
  rw [entryBit, Nat.add_assoc, lineBit_serialize_data val hd (channelBit_lt ho hj), Nat.mul_add_div (bits_pos c),
    Nat.mul_add_mod, Nat.div_eq_of_lt hj, Nat.mod_eq_of_lt hj, Nat.add_zero]

/-- Every bit of a frame is a bit of a control word or of an entry: there is nothing else in it (R77). -/
theorem frame_position_cases {c : Config} {p : Nat} (hp : p < 8 * c.frameBytes) :
    (∃ d q, d < c.n ∧ q < 8 * c.hdrBytes ∧ p = 8 * blockStart c d + q) ∨
      ∃ d o j, d < c.n ∧ o < c.channels ∧ j < c.bits ∧ p = entryBit c d o + j := by
  obtain ⟨hd, hq, hpos⟩ := frame_position hp
  generalize deviceOf c p = d, blockBit c p = q at hd hq hpos
  rcases Nat.lt_or_ge q (8 * c.hdrBytes) with h | h
  · exact .inl ⟨d, q, hd, h, hpos.symm⟩
  · obtain ⟨r, rfl⟩ := Nat.exists_eq_add_of_le h
    have hr : r < c.bits * c.channels := by
      have := channels_mul_bits c
      rw [Nat.mul_comm] at this
      unfold Config.blockBytes at hq
      omega
    refine .inr ⟨d, r / c.bits, r % c.bits, hd, Nat.div_lt_of_lt_mul hr, Nat.mod_lt _ (bits_pos c), ?_⟩
    rw [entryBit, Nat.add_assoc, Nat.div_add_mod, ← hpos, dataStart]
    omega

/-- No other frame bit depends on an entry (R76). -/
theorem lineBit_serialize_set {c : Config} {d o p : Nat} (val : List Value) (ho : o < c.channels) (x : Value)
    (hp : p < entryBit c d o ∨ entryBit c d o + c.bits ≤ p) :
    lineBit (serialize c (val.set (globalIndex c d o) x)) p = lineBit (serialize c val) p := by
  rcases Nat.lt_or_ge p (8 * c.frameBytes) with hlt | hge
  · rcases frame_position_cases hlt with ⟨d', q, hd', hq, rfl⟩ | ⟨d', o', j, hd', ho', hj, rfl⟩
    · rw [lineBit_serialize_hdr _ hd' hq, lineBit_serialize_hdr _ hd' hq]
    · have other : globalIndex c d' o' ≠ globalIndex c d o := fun h => by
        obtain ⟨rfl, rfl⟩ := globalIndex_inj ho' ho h
        omega
      rw [lineBit_serialize_entry _ hd' ho' hj, lineBit_serialize_entry _ hd' ho' hj, entry_set_of_ne other]
  · have beyond (v : List Value) : (serialize c v).length ≤ p / 8 := by rw [serialize_length]; omega
    rw [lineBit, lineBit, List.getD_eq_default _ _ (beyond _), List.getD_eq_default _ _ (beyond _)]

/-- The bits of an entry lie in two bytes of the frame. -/
theorem entryBit_mod_add_bits_le (c : Config) (d o : Nat) : entryBit c d o % 8 + c.bits ≤ 16 := by
  unfold entryBit Config.bits
  split <;> omega

theorem getD_serialize_set {c : Config} {d o m : Nat} (val : List Value) (ho : o < c.channels) (x : Value)
    (h0 : m ≠ entryBit c d o / 8) (h1 : m ≠ entryBit c d o / 8 + 1) :
    (serialize c (val.set (globalIndex c d o) x)).getD m 0 = (serialize c val).getD m 0 := by
  refine BitVec.eq_of_getLsbD_eq fun i hi => ?_
  have := entryBit_mod_add_bits_le c d o
  rw [getLsbD_getD _ _ hi, getLsbD_getD _ _ hi, lineBit_serialize_set val ho x (by omega)]

/-- A chip block is made of the control word and the entries of its own device. -/
theorem chipBlock_congr {c : Config} {val val' : List Value} {d : Nat}
    (h : ∀ o, o < c.channels → entry val (globalIndex c d o) = entry val' (globalIndex c d o)) :
    chipBlock c val d = chipBlock c val' d := by
  have data : chipBits c val d = chipBits c val' d :=
    List.flatMap_congr fun o ho => by rw [h o (List.mem_range.1 ho)]
  rw [chipBlock, chipBlock, data]

/-- Within a device the lower local channel stands first (R68). -/
theorem entryBit_add_bits_le_of_channel_lt {c : Config} {d o o' : Nat} (h : o < o') :
    entryBit c d o + c.bits ≤ entryBit c d o' := by
  have := Nat.mul_le_mul_left c.bits (Nat.succ_le_of_lt h)
  rw [Nat.mul_succ] at this
  unfold entryBit
  omega

/-- Of two devices the higher stands first (R67). -/
theorem entryBit_add_bits_le_of_device_lt {c : Config} {d d' o o' : Nat} (h : d' < d) (hd : d < c.n)
    (ho : o < c.channels) : entryBit c d o + c.bits ≤ entryBit c d' o' := by
  have block : blockStart c d + c.blockBytes ≤ blockStart c d' := by
    rw [blockStart, blockStart, ← Nat.succ_mul]
    exact Nat.mul_le_mul_right _ (by omega)
  have data : c.bits * o + (c.bits - 1) < 8 * c.dataBytes := channelBit_lt ho (by have := bits_pos c; omega)
  unfold Config.blockBytes at block
  unfold entryBit dataStart
  omega

/-- No two entries share a frame bit (R76). -/
theorem entryBit_disjoint {c : Config} {d o d' o' : Nat} (hd : d < c.n) (ho : o < c.channels) (hd' : d' < c.n)
    (ho' : o' < c.channels) (hne : (d', o') ≠ (d, o)) :
    entryBit c d' o' + c.bits ≤ entryBit c d o ∨ entryBit c d o + c.bits ≤ entryBit c d' o' := by
  rcases Nat.lt_trichotomy d d' with h | rfl | h
  · exact .inl (entryBit_add_bits_le_of_device_lt h hd' ho')
  · have : o' ≠ o := fun h => hne (by rw [h])
    exact (Nat.lt_or_gt_of_ne this).imp entryBit_add_bits_le_of_channel_lt entryBit_add_bits_le_of_channel_lt
  · exact .inr (entryBit_add_bits_le_of_device_lt h hd ho)

/-- Settles O44: the entry's own bits, and that every other position belongs to something else. -/
theorem eachEntryHasItsOwnFrameBits : Obligations.EachEntryHasItsOwnFrameBits := by
  intro c val d o hd ho
  refine ⟨fun j hj => lineBit_serialize_entry val hd ho hj, fun x p hp => lineBit_serialize_set val ho x hp,
    fun x m h0 h1 => getD_serialize_set val ho x h0 h1, fun x d' hd' => chipBlock_congr fun o' ho' => ?_,
    fun d' o' hd' ho' hne => entryBit_disjoint hd ho hd' ho' hne⟩
  exact entry_set_of_ne (fun h => hd' (globalIndex_inj ho' ho h).1) x

/-! ## No loss (R77) -/

/-- Two values of at most `MASK` with the same `B` bits are equal. -/
theorem value_ext {c : Config} {v w : Value} (hv : v.toNat ≤ c.mask) (hw : w.toNat ≤ c.mask)
    (h : ∀ j, j < c.bits → v.getLsbD (c.bits - 1 - j) = w.getLsbD (c.bits - 1 - j)) : v = w := by
  have high {u : Value} (hu : u.toNat ≤ c.mask) {k : Nat} (hk : c.bits ≤ k) : u.getLsbD k = false := by
    have hlt : u.toNat < 2 ^ c.bits := Nat.lt_of_le_pred (Nat.two_pow_pos _) hu
    exact Nat.testBit_lt_two_pow (hlt.trans_le (Nat.pow_le_pow_right (by decide) hk))
  refine BitVec.eq_of_getLsbD_eq fun k _ => ?_
  rcases Nat.lt_or_ge k c.bits with hk | hk
  · have := h (c.bits - 1 - k) (by omega)
    rwa [show c.bits - 1 - (c.bits - 1 - k) = k by omega] at this
  · rw [high hv hk, high hw hk]

/-- Two buffers of a configuration with the same entries are equal. -/
theorem buffer_ext {c : Config} {val val' : List Value} (hl : val.length = c.total) (hl' : val'.length = c.total)
    (h : ∀ d o, d < c.n → o < c.channels → entry val (globalIndex c d o) = entry val' (globalIndex c d o)) :
    val = val' := by
  refine List.ext_getElem (hl.trans hl'.symm) fun i hi hi' => ?_
  have hdiv : i / c.channels < c.n := Nat.div_lt_of_lt_mul (by rwa [Nat.mul_comm, ← Config.total, ← hl])
  have := h (i / c.channels) (i % c.channels) hdiv (Nat.mod_lt _ (channels_pos c))
  rwa [globalIndex, Nat.div_add_mod', entry, entry, List.getD_eq_getElem _ _ hi, List.getD_eq_getElem _ _ hi'] at this

/-- Settles O45: each entry is read off its own frame bits. -/
theorem frameDeterminesTheBuffer : Obligations.FrameDeterminesTheBuffer := by
  intro c val val' hw hw' hf
  refine buffer_ext (bufferWf_iff.1 hw).1 (bufferWf_iff.1 hw').1 fun d o hd ho => ?_
  refine value_ext (entry_le_mask hw _) (entry_le_mask hw' _) fun j hj => ?_
  rw [← lineBit_serialize_entry val hd ho hj, hf, lineBit_serialize_entry val' hd ho hj]

/-! ## The bytes of the two variants -/

/-- A byte of the channel data that lies within one entry, from its bit `j` on. -/
theorem dataByte_of_entry {c : Config} {d o j k : Nat} (val : List Value) (hd : d < c.n) (ho : o < c.channels)
    (hk : 8 * k = c.bits * o + j) (hj : j + 8 ≤ c.bits) :
    (serialize c val).getD (dataStart c d + k) 0 =
      (entry val (globalIndex c d o)).extractLsb' (c.bits - 8 - j) 8 := by
  refine BitVec.eq_of_getLsbD_eq fun i hi => ?_
  have pos : 8 * (dataStart c d + k) + (7 - i) = entryBit c d o + (j + (7 - i)) := by unfold entryBit; omega
  rw [getLsbD_getD _ _ hi, pos, lineBit_serialize_entry val hd ho (by omega),
    show c.bits - 1 - (j + (7 - i)) = c.bits - 8 - j + i by omega]
  simp [hi]

/-- The byte that two twelve-bit entries share: the low four bits of the one, the high four of the next. -/
theorem dataByte_of_two_entries {c : Config} {d o k : Nat} (val : List Value) (hd : d < c.n) (ho : o + 1 < c.channels)
    (hb : c.bits = 12) (hk : 8 * k = c.bits * o + 8) :
    (serialize c val).getD (dataStart c d + k) 0 =
      (entry val (globalIndex c d o)).extractLsb' 0 4 ++ (entry val (globalIndex c d (o + 1))).extractLsb' 8 4 := by
  refine BitVec.eq_of_getLsbD_eq fun i hi => ?_
  rw [getLsbD_getD _ _ hi, BitVec.getLsbD_append]
  split
  · next h =>
    have pos : 8 * (dataStart c d + k) + (7 - i) = entryBit c d (o + 1) + (3 - i) := by
      rw [hb] at hk; rw [entryBit, hb]; omega
    rw [pos, lineBit_serialize_entry val hd ho (by omega), show c.bits - 1 - (3 - i) = 8 + i by omega]
    simp [h]
  · next h =>
    have pos : 8 * (dataStart c d + k) + (7 - i) = entryBit c d o + (15 - i) := by
      rw [hb] at hk; rw [entryBit, hb]; omega
    rw [pos, lineBit_serialize_entry val hd (by omega) (by omega), show c.bits - 1 - (15 - i) = i - 4 by omega]
    simp [show i - 4 < 4 by omega]

/-- Settles O39: of the three bytes the outer two lie in one value each, and the two values share the middle one. -/
theorem twelveBitPairsPackIntoThreeBytes : Obligations.TwelveBitPairsPackIntoThreeBytes := by
  intro c val d j hv hh hd hj v0 v1 o f
  obtain ⟨hb, hC, hD⟩ := sizes_of_twelveBit hv
  have hg (i : Nat) : (entry val (globalIndex c d i)).toNat = (val.getD (24 * d + i) 0).toNat := by
    rw [entry, globalIndex, hC, Nat.mul_comm]
  have ho : o = dataStart c d := by simp [o, dataStart, blockStart, Config.blockBytes, Config.hdrBytes, hh, hD]
  simp only [f, ho, Nat.add_assoc]
  refine ⟨?_, ?_, ?_⟩
  · rw [dataByte_of_entry (o := 2 * j) (j := 0) val hd (by omega) (by rw [hb]; omega) (by omega)]
    simp [hg, hb, v0, Nat.shiftRight_eq_div_pow]
  · rw [dataByte_of_two_entries (o := 2 * j) val hd (by omega) hb (by rw [hb]; omega)]
    refine (append_toNat _ _).trans ?_
    simp [hg, v0, v1, Nat.shiftRight_eq_div_pow, Nat.add_assoc]
  · rw [dataByte_of_entry (o := 2 * j + 1) (j := 4) val hd (by omega) (by rw [hb]; omega) (by omega)]
    simp [hg, hb, v1, Nat.add_assoc]

/-- Settles O40: each byte lies in one value, and the control word stands before the channel data. -/
theorem sixteenBitValuesAreTwoBytes : Obligations.SixteenBitValuesAreTwoBytes := by
  intro c val d k hv hd hk v h o f
  obtain ⟨hb, hC, hD⟩ := sizes_of_sixteenBit hv
  have hg : (entry val (globalIndex c d k)).toNat = v := by
    rw [entry, globalIndex, hC, Nat.mul_comm]
  have ho : o = blockStart c d := by simp [o, h, blockStart, Config.blockBytes, Config.hdrBytes, hD]
  have hdata : o + h = dataStart c d := by rw [ho]; rfl
  simp only [f, hdata, Nat.add_assoc]
  refine ⟨?_, ?_, fun m hm => ?_⟩
  · rw [dataByte_of_entry (o := k) (j := 0) val hd (by omega) (by rw [hb]; omega) (by omega)]
    simpa [hg, hb, Nat.shiftRight_eq_div_pow] using Nat.div_lt_of_lt_mul (k := 256) (BitVec.isLt _)
  · rw [dataByte_of_entry (o := k) (j := 8) val hd (by omega) (by rw [hb]; omega) (by omega)]
    simp [hg, hb]
  · rw [ho, getD_serialize_block val hd (Nat.lt_add_right _ hm), chipBlock, List.getD_append _ _ _ _ hm]

/-! ## The empty chain and the all-zero buffer (R73, R74, R75) -/

theorem serialize_of_emptyChain {c : Config} (val : List Value) (h : c.n = 0) : serialize c val = [] := by
  simp [serialize, h]

/-- The events of a WRITE of which every request is answered `Ok` (R87). -/
theorem writeBody_trace_of_allOk {s : State} {rest : List Answer} (ha : s.answers = .ok :: .ok :: .ok :: rest) :
    (writeBody s).trace = s.trace ++
      [.xfer (serialize s.cfg s.val), .xferAns .ok, .high, .highAns .ok, .held, .low, .lowAns .ok, .rsp .ok 0 0] := by
  simp [writeBody_of_allOk ha]

/-- Settles O41: a WRITE's trace names the frame, and here the frame is empty. -/
theorem emptyChainHasTheEmptyFrame : Obligations.EmptyChainHasTheEmptyFrame := by
  refine ⟨fun c val => serialize_of_emptyChain val, fun s hr hn ha => ⟨writeBody s, exec_of_ready hr _, ?_⟩,
    fun s e hr hn ha => ⟨writeBody s, exec_of_ready hr _, ?_⟩⟩
  · rw [writeBody_trace_of_allOk ha, serialize_of_emptyChain _ hn]
  · rw [writeBody_trace_of_transferErr ha, serialize_of_emptyChain _ hn]

theorem bytesOfBits_replicate_false (k : Nat) : bytesOfBits (List.replicate (8 * k) false) = List.replicate k 0 := by
  induction k with
  | zero => rfl
  | succ k ih =>
    rw [Nat.mul_succ]
    simp only [List.replicate_succ, bytesOfBits, ih]
    rfl

/-- The chip block of a device whose entries are all 0 is the control word and zero bytes (R74). -/
theorem chipBlock_of_zero {c : Config} {val : List Value} {d : Nat}
    (h : ∀ o, o < c.channels → entry val (globalIndex c d o) = 0) :
    chipBlock c val d = c.hdr ++ List.replicate c.dataBytes 0 := by
  have data : chipBits c val d = List.replicate (8 * c.dataBytes) false := by
    refine List.eq_replicate_iff.2 ⟨chipBits_length c val d, fun b hb => ?_⟩
    obtain ⟨o, ho, hb⟩ := List.mem_flatMap.1 hb
    rw [h o (List.mem_range.1 ho)] at hb
    obtain ⟨_, _, rfl⟩ := List.mem_map.1 hb
    simp
  rw [chipBlock, data, bytesOfBits_replicate_false]

theorem dataByte_of_zero {c : Config} {val : List Value} {d k : Nat} (hd : d < c.n) (hk : k < c.dataBytes)
    (h : ∀ o, o < c.channels → entry val (globalIndex c d o) = 0) :
    (serialize c val).getD (dataStart c d + k) 0 = 0 := by
  rw [dataStart, Nat.add_assoc, getD_serialize_block val hd (by unfold Config.blockBytes; omega), chipBlock_of_zero h,
    Config.hdrBytes, List.getD_append_right _ _ _ _ (Nat.le_add_right _ k)]
  simp

theorem entry_of_zero {val : List Value} (h : ∀ v ∈ val, v = 0) (i : Nat) : entry val i = 0 := by
  rw [List.eq_replicate_iff.2 ⟨rfl, h⟩, entry, List.getD_eq_getElem?_getD, List.getElem?_getD_replicate_default_eq]

/-- The frame of an all-zero buffer: `N` times the control word and the zero bytes of one chip (R74). -/
theorem serialize_of_zero {c : Config} {val : List Value} (h : ∀ v ∈ val, v = 0) :
    serialize c val = (List.replicate c.n (c.hdr ++ List.replicate c.dataBytes 0)).flatten := by
  rw [serialize, List.flatMap_congr fun d _ => chipBlock_of_zero fun _ _ => entry_of_zero h _]
  simp [List.flatMap_def]

/-- Settles O42: every chip block is the control word and zero bytes. -/
theorem zeroBufferHasZeroChannelData : Obligations.ZeroBufferHasZeroChannelData := by
  intro c val h
  refine ⟨fun d k hd hk => dataByte_of_zero hd hk fun _ _ => entry_of_zero h _, fun hhdr => ?_,
    serialize_of_zero h, fun v => List.eq_of_mem_replicate⟩
  rw [serialize_of_zero h, List.eq_replicate_iff.2 ⟨rfl, hhdr⟩]
  simp [Config.frameBytes, Config.blockBytes, Config.hdrBytes]

/-- An admitted twelve-bit configuration has no control word (R72). -/
theorem hdr_of_twelveBit {c : Config} (hok : c.ok = true) (hv : c.variant = .twelveBit24Channel) : c.hdr = [] := by
  simp only [Config.ok, hv, Bool.and_eq_true, List.isEmpty_iff] at hok
  obtain ⟨⟨_, hh⟩, _⟩ := hok
  exact hh

/-- Settles O43: device 1 is sent first, so O39 and O40 give its first value at the head of the frame. -/
theorem lastChipIsSentFirst : Obligations.LastChipIsSentFirst := by
  intro c x hok hn hx
  have hC := channels_pos c
  generalize hval : (List.replicate c.total (0 : Value)).set c.channels x = val
  have first : entry val c.channels = x := by
    rw [← hval, entry_set_self (by rw [List.length_replicate, Config.total, hn]; omega)]
  have others {i : Nat} (hi : i ≠ c.channels) : entry val i = 0 := by
    rw [← hval, entry_set_of_ne hi, entry_of_zero fun _ => List.eq_of_mem_replicate]
  refine ⟨fun hv => ?_, fun hv => ?_, fun k hk => ?_⟩
  · obtain ⟨hb, hC, _⟩ := sizes_of_twelveBit hv
    obtain ⟨h0, h1, _⟩ :=
      twelveBitPairsPackIntoThreeBytes c val 1 0 hv (hdr_of_twelveBit hok hv) (by omega) (by decide)
    have e0 : val.getD (24 * 1 + 2 * 0) 0 = x := by rw [hC] at first; exact first
    have e1 : val.getD (24 * 1 + 2 * 0 + 1) 0 = 0 := others (by omega)
    have hx12 : x.toNat / 16 < 256 := by rw [Config.mask, hb] at hx; omega
    rw [e0, hn, Nat.mod_eq_of_lt hx12] at h0
    rw [e0, e1, hn] at h1
    exact ⟨h0, h1⟩
  · obtain ⟨_, hC, _⟩ := sizes_of_sixteenBit hv
    obtain ⟨h0, h1, _⟩ := sixteenBitValuesAreTwoBytes c val 1 0 hv (by omega) (by decide)
    have e0 : val.getD (12 * 1 + 0) 0 = x := by rw [hC] at first; exact first
    rw [e0, hn] at h0 h1
    simpa using And.intro h0 h1
  · have start : dataStart c 0 = c.blockBytes + c.hdr.length := by simp [dataStart, blockStart, hn, Config.hdrBytes]
    rw [← start]
    exact dataByte_of_zero (by omega) hk fun o ho => others (by rw [globalIndex]; omega)

end Sys2Proof.Machine
end

section
/-! SUPPORT. The family of WRITE and DESTROY (42_write_latch_destroy.md): the chips show one whole frame in every step,
the events of a WRITE as a function of the answers to it, the hold time, and the rows of the sequencer's table. -/

namespace Sys2Proof.Machine

/-! ## The chips show one whole frame (R39, R89) -/

/-- In `t` the chips show what they show in `s`, or the whole frame of the buffer of `s`. -/
def OldOrFrame (s t : State) : Prop :=
  t.chain.out = s.chain.out ∨ t.chain.out = .holds (serialize s.cfg s.val)

theorem OldOrFrame.refl (s : State) : OldOrFrame s s := .inl rfl

/-- With the frame in the shift registers, a draw keeps to the two. -/
theorem OldOrFrame.drawn {s t : State} (h : OldOrFrame s t) (hsr : t.chain.sr = .holds (serialize s.cfg s.val))
    (k : Nat) : drawnOut k t.chain.sr t.chain.out = s.chain.out ∨
      drawnOut k t.chain.sr t.chain.out = .holds (serialize s.cfg s.val) :=
  hsr ▸ drawnOut_oldOrNew h k

/-- Only the transitions of the pulse write the outputs, and the pulse has the whole frame in the chain (R116). -/
theorem OldOrFrame.advance {s t : State} (h : OldOrFrame s t) (hi : Inv t) (hc : t.cfg = s.cfg) (hv : t.val = s.val) :
    OldOrFrame s t.advance := by
  have sent := hi.sent
  rw [hc, hv] at sent
  rcases advance_cases t with e | ⟨_, k, _, e⟩ | ⟨_, _, e⟩ | ⟨_, r, _, e⟩ | ⟨_, x, r, _, e⟩ | ⟨hp, r, _, e⟩ |
    ⟨hp, x, r, _, e⟩ | ⟨hp, r, _, e⟩ | ⟨hp, x, r, _, e⟩ <;> rw [e]
  iterate 5 exact h  -- no change, the hold time, the transfer's answers
  · exact h.drawn (sent (.inl hp)) _
  · exact h.drawn (sent (.inl hp)) _
  · have hsr := sent (.inr (.inr hp))
    simpa [OldOrFrame, hsr] using loweredOut_oldOrNew h t.chain.clean t.draws
  · exact h.drawn (sent (.inr (.inr hp))) _

theorem Inv.oldOrFrame_settle {s : State} (h : Inv s) : OldOrFrame s s.settle := by
  suffices hs : Inv s.settle ∧ s.settle.cfg = s.cfg ∧ s.settle.val = s.val ∧ OldOrFrame s s.settle from hs.2.2.2
  refine settle_keeps (P := fun t => Inv t ∧ t.cfg = s.cfg ∧ t.val = s.val ∧ OldOrFrame s t)
    (fun t ⟨hi, hc, hv, ho⟩ => ?_) ⟨h, rfl, rfl, .refl s⟩
  obtain ⟨hc', hv', _⟩ := advance_same t
  exact ⟨hi.advance, hc'.trans hc, hv'.trans hv, ho.advance hi hc hv⟩

theorem Inv.oldOrFrame_wait {s : State} (h : Inv s) : OldOrFrame s s.wait := by
  rcases wait_cases s with e | ⟨hp, e⟩ <;> rw [e]
  · exact .refl s
  · exact (OldOrFrame.refl s).drawn (h.sent (.inr (.inr hp))) _

/-- A reset leaves the outputs alone, or it breaks off a pulse, which has the frame in the chain (R112). -/
theorem Inv.oldOrFrame_doReset {s : State} (h : Inv s) (b : Bool) : OldOrFrame s (s.doReset b) := by
  have drawn (hsr : s.chain.sr = .holds (serialize s.cfg s.val)) := (OldOrFrame.refl s).drawn hsr s.draws
  simp only [OldOrFrame, State.doReset_chain, State.breakOff]
  cases hp : s.phase with
  | idle => exact .inl rfl
  | xfer => exact .inl rfl
  | latHigh => exact drawn (h.sent (.inl hp))
  | hold => exact drawn (h.sent (.inr (.inl hp)))
  | latLow => exact drawn (h.sent (.inr (.inr hp)))

theorem Inv.oldOrFrame_resume {s : State} (h : Inv s) : OldOrFrame s s.resume := by
  rcases resume_cases s with ⟨b, rest, _, e⟩ | ⟨_, ⟨_, _, e⟩ | ⟨_, e⟩⟩ <;> rw [e]
  exacts [(h.unspoken _ _ rest _ _ _).oldOrFrame_doReset b, h.oldOrFrame_wait, h.oldOrFrame_settle]

theorem Inv.oldOrFrame_exec {s t : State} (h : Inv s) {i : Instr} (he : Machine.exec i s = .next t) :
    OldOrFrame s t := by
  by_cases hw : i = .write
  · subst hw
    exact exec_elim he (.refl s) (fun _ => .refl s) fun hp hl => (h.requestTransfer hp hl).oldOrFrame_settle
  · exact .inl (by rw [exec_chain hw he])

/-- Settles O49: the outputs are written only by the copy and the draws of a pulse, and while a pulse is in progress
the invariant has the whole frame of the buffer in the shift registers. -/
theorem outputsAreNeverAMixture : Obligations.OutputsAreNeverAMixture := by
  intro s t h he
  obtain ⟨_, ⟨_, rfl⟩ | ⟨_, ⟨_, rfl⟩ | ⟨b, rest, _, rfl⟩ | ⟨rest, _, rfl⟩ |
    ⟨w, as, rest, _, ⟨i, _, he⟩ | ⟨e, _, rfl⟩⟩⟩⟩ := step_cases he
  · exact h.oldOrFrame_resume
  · exact .inl rfl
  · exact (h.unspoken _ _ rest _ _ _).oldOrFrame_doReset b
  · exact .inl rfl
  · exact (h.accept w as rest).oldOrFrame_exec he
  · exact .inl rfl

/-! ## WRITE, by the answers to it (R87, R94, R126)

The lemma for three `Ok`s, `writeBody_of_allOk`, stands with the memory's family. -/

theorem writeBody_of_noAnswer {s : State} (ha : s.answers = []) : writeBody s = s.requestTransfer := by
  simpa [ha] using writeBody_cases s

theorem writeBody_of_oneOk {s : State} (ha : s.answers = [.ok]) :
    writeBody s = (s.requestTransfer.takeAnswer []).transferDone := by
  simpa [ha] using writeBody_cases s

theorem writeBody_of_twoOk {s : State} (ha : s.answers = [.ok, .ok]) :
    writeBody s = ((s.requestTransfer.takeAnswer [.ok]).transferDone.takeAnswer []).pulsed := by
  simpa [ha] using writeBody_cases s

theorem writeBody_of_transferErr {s : State} {e : Nat} {rest : List Answer} (ha : s.answers = .err e :: rest) :
    writeBody s = (s.requestTransfer.takeAnswer rest).transferFailed e := by
  simpa [ha] using writeBody_cases s

theorem writeBody_of_raiseErr {s : State} {e : Nat} {rest : List Answer} (ha : s.answers = .ok :: .err e :: rest) :
    writeBody s =
      ((s.requestTransfer.takeAnswer (.err e :: rest)).transferDone.takeAnswer rest).raiseFailed e := by
  simpa [ha] using writeBody_cases s

theorem writeBody_of_lowerErr {s : State} {e : Nat} {rest : List Answer}
    (ha : s.answers = .ok :: .ok :: .err e :: rest) :
    writeBody s = ((((s.requestTransfer.takeAnswer (.ok :: .err e :: rest)).transferDone.takeAnswer
      (.err e :: rest)).pulsed).takeAnswer rest).lowerFailed e := by
  simpa [ha] using writeBody_cases s

/-- Settles O24: each pattern of answers has its end state, and the laws of the transitions give its fields. -/
theorem writeHasTheFourTraces : Obligations.WriteHasTheFourTraces := by
  intro s e rest hr f
  refine ⟨fun ha => ⟨_, exec_of_ready hr _, ?_⟩, fun ha => ⟨_, exec_of_ready hr _, ?_⟩,
    fun ha => ⟨_, exec_of_ready hr _, ?_⟩, fun ha => ⟨_, exec_of_ready hr _, ?_⟩⟩ <;> rw [bodyOf]
  · simp [writeBody_of_allOk ha, f]
  · simp [writeBody_of_transferErr ha, f]
  · simp [writeBody_of_raiseErr ha, f]
  · simp [writeBody_of_lowerErr ha, f]

/-- Settles O25: each place to wait has its state, and the laws of the transitions give its fields. -/
theorem writeWaitsForTheNextAnswer : Obligations.WriteWaitsForTheNextAnswer := by
  intro s hr f
  refine ⟨fun ha => ⟨_, exec_of_ready hr _, ?_⟩, fun ha => ⟨_, exec_of_ready hr _, ?_⟩,
    fun ha => ⟨_, exec_of_ready hr _, ?_⟩⟩ <;> rw [bodyOf]
  · simp [writeBody_of_noAnswer ha, f]
  · simp [writeBody_of_oneOk ha, f]
  · simp [writeBody_of_twoOk ha, f]

/-- Settles O27: the transfer's refusal is the WRITE's last transition. -/
theorem failedTransferTouchesNoLatch : Obligations.FailedTransferTouchesNoLatch := by
  intro s e rest hr ha
  obtain ⟨_, hidle, _⟩ := id hr
  rw [exec_of_ready hr, bodyOf, writeBody_of_transferErr ha]
  simp [State.requestTransfer, State.takeAnswer, State.transferFailed, State.raise, State.respond, State.emit, hidle]

/-! ## The events of a WRITE -/

/-- The events that follow the request of `set_low`, by the answers to come. -/
def lowEvents : List Answer → List Event
  | [] => []
  | .ok :: _ => [.lowAns .ok, .rsp .ok 0 0]
  | .err e :: _ => [.lowAns (.err e), .rsp .latchFailed e 0]

/-- The events that follow the request of `set_high`, by the answers to come. -/
def highEvents : List Answer → List Event
  | [] => []
  | .ok :: as => .highAns .ok :: .held :: .low :: lowEvents as
  | .err e :: _ => [.highAns (.err e), .rsp .latchFailed e 0]

/-- The events of one WRITE, by the frame it sends and the answers to come (R87). -/
def writeEvents (f : Frame) : List Answer → List Event
  | [] => [.xfer f]
  | .ok :: as => .xfer f :: .xferAns .ok :: .high :: highEvents as
  | .err e :: _ => [.xfer f, .xferAns (.err e), .rsp .transferFailed e 0]

theorem writeBody_trace (s : State) :
    (writeBody s).trace = s.trace ++ writeEvents (serialize s.cfg s.val) s.answers := by
  rcases writeBody_cases s with ⟨ha, e⟩ | ⟨ha, e⟩ | ⟨ha, e⟩ | ⟨x, rest, ha, e⟩ | ⟨x, rest, ha, e⟩ | ⟨x, rest, ha, e⟩ |
    ⟨rest, ha, e⟩ <;> simp [e, ha, writeEvents, highEvents, lowEvents]

/-- The one response of a WRITE, if it has given it, carries no data (R86). -/
theorem data_of_rsp_mem_writeEvents (f : Frame) (as : List Answer) (st : Status) (c : Nat) (d : Value) :
    .rsp st c d ∈ writeEvents f as → d = 0 := by
  have low (as : List Answer) : Event.rsp st c d ∈ lowEvents as → d = 0 := by
    rcases as with _ | ⟨_ | e, as⟩ <;> simp +contextual [lowEvents]
  have high (as : List Answer) : Event.rsp st c d ∈ highEvents as → d = 0 := by
    rcases as with _ | ⟨_ | e, as⟩
    · simp [highEvents]
    · simpa [highEvents] using low as
    · simp +contextual [highEvents]
  rcases as with _ | ⟨_ | e, as⟩
  · simp [writeEvents]
  · simpa [writeEvents] using high as
  · simp +contextual [writeEvents]

/-- Settles O28: the answers decide the events, and what the pulse did to the chain is R39. -/
theorem failedLatchDriveLeavesTheBuffer : Obligations.FailedLatchDriveLeavesTheBuffer := by
  intro s t e rest hr ha h
  obtain rfl := exec_write_of_ready hr h
  obtain ⟨_, sent⟩ : ∃ as, s.answers = .ok :: as := by rcases ha with ha | ha <;> exact ⟨_, ha⟩
  obtain ⟨hsr, hout⟩ := writeBody_chain_of_transferOk sent
  refine ⟨?_, ?_, writeBody_val s, writeBody_life s, hsr, hout, fun ha => ?_, fun ha => ?_⟩
  · rcases ha with ha | ha <;> simp [writeBody_trace, ha, writeEvents, highEvents, lowEvents]
  · rcases ha with ha | ha
    · simp [writeBody_of_raiseErr ha]
    · simp [writeBody_of_lowerErr ha]
  · simp [writeBody_trace, ha, writeEvents, highEvents]
  · simp [writeBody_trace, ha, writeEvents, highEvents]

/-- Settles O29: a WRITE not accepted adds no event, one on a destroyed block `Destroyed`, one that runs
`writeEvents`. -/
theorem writeNeverTouchesTheBuffer : Obligations.WriteNeverTouchesTheBuffer := by
  intro s t h
  obtain ⟨_, ⟨_, rfl⟩ | ⟨_, _, rfl⟩ | ⟨_, _, rfl⟩⟩ := exec_cases h
  · exact ⟨rfl, rfl, rfl, rfl, [], by simp⟩
  · exact ⟨rfl, rfl, rfl, rfl, [.rsp .destroyed 0 0], rfl, by simp⟩
  · exact ⟨writeBody_val s, writeBody_life s, bodyOf_cfg .write s, by simp [bodyOf, writeBody], _, writeBody_trace s,
      data_of_rsp_mem_writeEvents _ _⟩

/-! The order of the requests (R88). -/

/-- Every `y` of the list stands after some `x`. -/
def Precedes (x y : Event) (ev : List Event) : Prop := ∀ k : Nat, ev[k]? = some y → ∃ j, j < k ∧ ev[j]? = some x

theorem precedes_of_notMem {x y : Event} {ev : List Event} (h : y ∉ ev) : Precedes x y ev :=
  fun _ hk => absurd (List.mem_of_getElem? hk) h

/-- Where no `y` stands before an `x` or at its place, every `y` comes after this `x`. -/
theorem precedes_append {x y : Event} {pre : List Event} (h : y ∉ pre ++ [x]) (post : List Event) :
    Precedes x y (pre ++ x :: post) := by
  intro k hk
  refine ⟨pre.length, lt_of_not_ge fun hle => h ?_, by simp⟩
  rw [← List.singleton_append, ← List.append_assoc, List.getElem?_append_left (by simp; omega)] at hk
  exact List.mem_of_getElem? hk

/-- The pin requests come after the transfer's `Ok`. -/
theorem xferAns_precedes_pin {f : Frame} {y : Event} (hy : y = .high ∨ y = .low) (as : List Answer) :
    Precedes (.xferAns .ok) y (writeEvents f as) := by
  rcases as with _ | ⟨_ | e, as⟩
  · exact precedes_of_notMem (by rcases hy with rfl | rfl <;> simp [writeEvents])
  · exact precedes_append (pre := [.xfer f]) (by rcases hy with rfl | rfl <;> simp) _
  · exact precedes_of_notMem (by rcases hy with rfl | rfl <;> simp [writeEvents])

theorem high_precedes_low (f : Frame) (as : List Answer) : Precedes .high .low (writeEvents f as) := by
  rcases as with _ | ⟨_ | e, as⟩
  · exact precedes_of_notMem (by simp [writeEvents])
  · exact precedes_append (pre := [.xfer f, .xferAns .ok]) (by simp) _
  · exact precedes_of_notMem (by simp [writeEvents])

/-! How often each request is made (R88). -/

/-- After the request of `set_low` nothing is requested. -/
theorem lowEvents_requests_nothing (as : List Answer) :
    (∀ g, .xfer g ∉ lowEvents as) ∧ .high ∉ lowEvents as ∧ .low ∉ lowEvents as := by
  rcases as with _ | ⟨_ | e, as⟩ <;> simp [lowEvents]

/-- After the request of `set_high` only `set_low` is requested: once, exactly when the answer is `Ok`. -/
theorem highEvents_requests (as : List Answer) :
    (∀ g, .xfer g ∉ highEvents as) ∧ .high ∉ highEvents as ∧
      (highEvents as).count .low = if .highAns .ok ∈ highEvents as then 1 else 0 := by
  rcases as with _ | ⟨_ | e, as⟩
  · simp [highEvents]
  · obtain ⟨hx, hh, hl⟩ := lowEvents_requests_nothing as
    simp [highEvents, hx, hh, List.count_eq_zero_of_not_mem hl]
  · simp [highEvents]

theorem writeEvents_requests (f : Frame) (as : List Answer) :
    (∀ g, .xfer g ∈ writeEvents f as → g = f) ∧ (writeEvents f as).count (.xfer f) = 1 ∧
      (writeEvents f as).count .high = (if .xferAns .ok ∈ writeEvents f as then 1 else 0) ∧
      (writeEvents f as).count .low = (if .highAns .ok ∈ writeEvents f as then 1 else 0) := by
  rcases as with _ | ⟨_ | e, as⟩
  · simp [writeEvents]
  · obtain ⟨hx, hh, hl⟩ := highEvents_requests as
    simp [writeEvents, hx, List.count_eq_zero_of_not_mem (hx f), List.count_eq_zero_of_not_mem hh, hl]
  · simp [writeEvents]

/-- A command other than WRITE adds its response alone, or `Own(0)` and OK. -/
theorem bodyOf_trace {i : Instr} (hw : i ≠ .write) (s : State) :
    (∃ st c d, (bodyOf i s).trace = s.trace ++ [.rsp st c d]) ∨
      (bodyOf i s).trace = s.trace ++ [.own0, .rsp .ok 0 0] := by
  cases i with
  | setChannel i v => rcases setChannelBody_cases i v s with h | h <;> simp [bodyOf, h]
  | setRgb d r g b => rcases setRgbBody_cases d r g b s with h | h <;> simp [bodyOf, h]
  | getChannel i => rcases getChannelBody_cases i s with h | h <;> simp [bodyOf, h]
  | write => exact absurd rfl hw
  | destroy => simp [bodyOf, destroyBody]

/-- No command but WRITE makes a request (R88). -/
theorem exec_requests_nothing {i : Instr} {s t : State} (hw : i ≠ .write) (h : exec i s = .next t) :
    ∃ ev, t.trace = s.trace ++ ev ∧ (∀ g, .xfer g ∉ ev) ∧ .high ∉ ev ∧ .low ∉ ev := by
  obtain ⟨_, ⟨_, rfl⟩ | ⟨_, _, rfl⟩ | ⟨_, _, rfl⟩⟩ := exec_cases h
  · exact ⟨[], by simp⟩
  · exact ⟨_, rfl, by simp⟩
  · rcases bodyOf_trace hw s with ⟨st, c, d, e⟩ | e <;> exact ⟨_, e, by simp⟩

/-- Settles O30: counts and order hold of `writeEvents`. -/
theorem writeRequestsEachAtMostOnce : Obligations.WriteRequestsEachAtMostOnce := by
  refine ⟨fun s t hr h => ⟨writeEvents (serialize s.cfg s.val) s.answers, ?_⟩, fun i s t => exec_requests_nothing⟩
  obtain rfl := exec_write_of_ready hr h
  obtain ⟨hg, hx, hh, hl⟩ := writeEvents_requests (serialize s.cfg s.val) s.answers
  refine ⟨writeBody_trace s, hg, hx, hh, hl, fun k hk => ?_, high_precedes_low _ _⟩
  rcases hk with hk | hk
  · exact xferAns_precedes_pin (.inl rfl) _ k hk
  · exact xferAns_precedes_pin (.inr rfl) _ k hk

/-! ## The repeated WRITE (R90) -/

/-- After a WRITE that ended OK from a low line, chain and line are settled by the frame alone (R39 (a)). -/
theorem writeBody_chain_of_allOk {s : State} {rest : List Answer} (ha : s.answers = .ok :: .ok :: .ok :: rest)
    (hl : LineLow s) :
    (writeBody s).chain =
      ⟨.holds (serialize s.cfg s.val), .holds (serialize s.cfg s.val), .low, true⟩ := by
  obtain ⟨hlat, hline⟩ := hl
  simp [writeBody_of_allOk ha, hlat, hline]

/-- Such a WRITE leaves a ready block with a low line, and the answers it did not need. -/
theorem writeBody_ready_of_allOk {s : State} {rest : List Answer} (hr : Ready s)
    (ha : s.answers = .ok :: .ok :: .ok :: rest) :
    Ready (writeBody s) ∧ LineLow (writeBody s) ∧ (writeBody s).answers = rest := by
  obtain ⟨hc, _, hl⟩ := hr
  simp [Ready, LineLow, writeBody_of_allOk ha, hc, hl]

/-- Settles O33: both WRITEs send the frame of the same buffer, and the first leaves what the second needs. -/
theorem repeatedWriteChangesNothingShown : Obligations.RepeatedWriteChangesNothingShown := by
  intro s rest hr hl ha
  obtain ⟨hr', hl', ha'⟩ := writeBody_ready_of_allOk hr ha
  obtain ⟨hlat, _⟩ := id hl'
  obtain ⟨_, ⟨hlat', _⟩, _⟩ := writeBody_ready_of_allOk hr' ha'
  have hcfg : (writeBody s).cfg = s.cfg := bodyOf_cfg .write s
  refine ⟨writeBody s, writeBody (writeBody s), exec_of_ready hr _, exec_of_ready hr' _, ?_, ?_, ?_⟩
  · rw [writeBody_trace_of_allOk ha', writeBody_trace_of_allOk ha, List.drop_left, List.drop_left, hcfg, writeBody_val]
  · rw [writeBody_chain_of_allOk ha' hl', writeBody_chain_of_allOk ha hl, hcfg, writeBody_val]
  · rw [hlat', hlat]

/-! ## The hold time (R84, R108) -/

/-- The timer counts one period for each transition, and nothing else happens. -/
theorem advanceBy_hold {s : State} (hp : s.phase = .hold) {k : Nat} (hk : k ≤ s.hold) :
    State.advanceBy k s = { s with hold := s.hold - k } := by
  induction k with
  | zero => rfl
  | succ k ih =>
    have left : s.hold - k = s.hold - (k + 1) + 1 := by omega
    rw [advanceBy_succ, ih (by omega), advance_hold (by exact hp), holding_succ (by exact left)]

/-- Settles O35: the timer is loaded at the `Ok`, counts down, and at 0 the hold ends. -/
theorem latchIsHeldForTheHoldTime : Obligations.LatchIsHeldForTheHoldTime := by
  refine ⟨fun s rest hp ha => by simp [advance_latHigh_ok hp ha], fun s hp => ⟨fun k hk => ?_, ?_⟩⟩
  · rw [advanceBy_hold hp hk]
    exact ⟨hp, rfl⟩
  · rw [advanceBy_succ, advanceBy_hold hp (le_refl _), advance_hold (by exact hp),
      holding_zero (Nat.sub_self s.hold)]
    simp

/-! ## DESTROY (R92) -/

/-- Settles O22: DESTROY's own pseudocode, and the prologue on a destroyed block. -/
theorem destroyGivesUpBothCapabilities : Obligations.DestroyGivesUpBothCapabilities := by
  refine ⟨fun s hr => ?_, fun s t hr h => ?_, fun s hc hp hl => exec_of_destroyed hc hp hl _⟩
  · simp [exec_of_ready hr, bodyOf, destroyBody, State.respond, State.emit]
  · obtain ⟨_, _, hl⟩ := id hr
    rw [exec_of_ready hr] at h
    cases h
    simp [State.ownBus, State.ownPin, bodyOf, destroyBody, hl]

/-! ## The table of phases (R94) -/

/-- Every command but WRITE is executed wholly in Idle. -/
theorem bodyOf_phase {i : Instr} {s : State} (hw : i ≠ .write) (hp : s.phase = .idle) :
    (bodyOf i s).phase = .idle := by
  by_cases hd : i = .destroy
  · subst hd
    exact hp
  · rw [(bodyOf_alteredInBuffer hw hd hp).1]
    exact hp

/-- Settles O34: row by row, by the lemma of each transition. -/
theorem phaseTableHolds : Obligations.PhaseTableHolds := by
  refine ⟨fun s hr ha => ⟨_, exec_of_ready hr _, ?_⟩, fun s rest hp ha => ?_, fun s e rest hp ha => ?_,
    fun s rest hp ha => ?_, fun s e rest hp ha => ?_, fun s hp hk => ?_, fun s rest hp ha => ?_,
    fun s e rest hp ha => ?_, fun s hp ha => ?_, fun s k hp hk => ?_,
    fun i s hw hr => ⟨_, exec_of_ready hr i, ?_⟩⟩
  · simp [bodyOf, writeBody_of_noAnswer ha]
  · simp [advance_xfer_ok hp ha]
  · simp [advance_xfer_err hp ha]
  · simp [advance_latHigh_ok hp ha]
  · simp [advance_latHigh_err hp ha]
  · simp [advance_hold hp, holding_zero hk]
  · simp [advance_latLow_ok hp ha]
  · simp [advance_latLow_err hp ha]
  · exact advance_waiting (by rcases hp with hp | hp | hp <;> simp [hp]) ha
  · rw [advance_hold hp, holding_succ hk]
  · obtain ⟨_, hidle, _⟩ := hr
    exact bodyOf_phase hw hidle

end Sys2Proof.Machine
end

section
/-! SUPPORT. The exceptions' family (60_exceptions.md): what each way a command can end leaves behind when it is an
error, and the one answer of a destroyed block. -/

namespace Sys2Proof.Machine

/-! ## Errors are precise (R96, R97) -/

/-- If `t` is reached from `s` by a command that ended with an error, then it differs from `s` only as R96 and R97
allow. -/
def ErrsPrecisely (s t : State) : Prop :=
  ∀ (st : Status) (c : Nat) (d : Value), t.trace.getLast? = some (.rsp st c d) → st ≠ .ok →
    t.phase = .idle ∧ d = 0 ∧ t.val = s.val ∧ t.life = s.life ∧ t.cfg = s.cfg ∧
      (if st = .latchFailed then t.lat = .unknown else t.lat = s.lat) ∧
      (st ≠ .latchFailed → st ≠ .transferFailed → c = 0 ∧ t.chain = s.chain)

/-- Nothing is asked of a command that ended OK. -/
theorem errsPrecisely_of_ok (s : State) {t : State} {u : List Event} {d : Value}
    (h : t.trace = u ++ [.rsp .ok 0 d]) : ErrsPrecisely s t := by
  intro st c d' hlast herr
  obtain ⟨rfl, _⟩ : Status.ok = st ∧ 0 = c ∧ d = d' := by simpa [h] using hlast
  exact absurd rfl herr

/-- An error raised before anything was written (R97). -/
theorem errsPrecisely_raise {st : Status} (hst : st ≠ .latchFailed) (s : State) : ErrsPrecisely s (s.raise st 0) := by
  intro st' c d hlast _
  obtain ⟨rfl, rfl, rfl⟩ : st = st' ∧ 0 = c ∧ 0 = d := by simpa using hlast
  simp [hst]

/-- A WRITE ends with an error where a collaborator refuses: the transfer before the latch was driven, the pin with
`lat` Unknown (R82, R85). -/
theorem errsPrecisely_writeBody (s : State) : ErrsPrecisely s (writeBody s) := by
  rcases writeBody_cases s with ⟨_, e⟩ | ⟨_, e⟩ | ⟨_, e⟩ | ⟨x, rest, _, e⟩ | ⟨x, rest, _, e⟩ | ⟨x, rest, _, e⟩ |
    ⟨rest, _, e⟩ <;> rw [e]
  iterate 3 simp [ErrsPrecisely]  -- a WRITE that waits has made a request last
  · intro st c d hlast _
    obtain ⟨rfl, _, rfl⟩ : Status.transferFailed = st ∧ x = c ∧ 0 = d := by simpa using hlast
    simp
  iterate 2
    intro st c d hlast _
    obtain ⟨rfl, _, rfl⟩ : Status.latchFailed = st ∧ x = c ∧ 0 = d := by simpa using hlast
    simp
  · exact errsPrecisely_of_ok s (State.lowered_trace _)

/-- The buffer commands check their operands before any write, and DESTROY has no error of its own (R60, R61, R62,
R92). -/
theorem errsPrecisely_bodyOf (i : Instr) (s : State) : ErrsPrecisely s (bodyOf i s) := by
  have indexError : ErrsPrecisely s (s.raise .indexOutOfRange 0) := errsPrecisely_raise (by decide) s
  cases i with
  | setChannel i v =>
    rcases setChannelBody_cases i v s with e | e <;> rw [bodyOf, e]
    exacts [indexError, errsPrecisely_of_ok s rfl]
  | setRgb d r g b =>
    rcases setRgbBody_cases d r g b s with e | e <;> rw [bodyOf, e]
    exacts [indexError, errsPrecisely_of_ok s rfl]
  | getChannel i =>
    rcases getChannelBody_cases i s with e | e <;> rw [bodyOf, e]
    exacts [indexError, errsPrecisely_of_ok s rfl]
  | write => exact errsPrecisely_writeBody s
  | destroy => exact errsPrecisely_of_ok s rfl

/-- Settles O14: an idle block accepts the command, and then it is the prologue that ends it, or its own
pseudocode. -/
theorem errorsChangeNothingElse : Obligations.ErrorsChangeNothingElse := by
  intro i s t st c d _ hp h
  suffices hs : ErrsPrecisely s t from hs st c d
  obtain ⟨_, ⟨hbusy, _⟩ | ⟨_, _, rfl⟩ | ⟨_, _, rfl⟩⟩ := exec_cases h
  · exact absurd hp hbusy
  · exact errsPrecisely_raise (by decide) s
  · exact errsPrecisely_bodyOf i s

/-! ## A destroyed block (R102) -/

/-- Settles O23: the prologue, which the order of handling (R59) needs as well. -/
theorem destroyedBlockOnlyAnswersDestroyed : Obligations.DestroyedBlockOnlyAnswersDestroyed :=
  fun i _ hc hp hl => exec_of_destroyed hc hp hl i

end Sys2Proof.Machine
end

section
/-! SUPPORT. The family of reset and hazards (70_reset_and_hazards.md): what a reset leaves of the chain, what another
user of the bus leaves, that every run goes on, and that a WRITE waits exactly for the answers it lacks. -/

namespace Sys2Proof.Machine

/-! ## Reset (R111, R112, R113) -/

/-- A reset wins in every phase (R112, D28). -/
theorem step_of_reset_anyPhase {s : State} {b : Bool} {rest : List HostInput} (hc : s.cfg.ok = true)
    (hs : s.script = .reset b :: rest) : step s = .next ({ s with script := rest }.doReset b) := by
  by_cases hp : s.phase = .idle
  · exact step_of_reset hc hp hs
  · rw [step_of_busy hc hp, resume_of_reset hs]

/-- The chain after a WRITE was broken off, by the phase it was in (R112). -/
theorem breakOff_chain_cases (s : State) :
    (s.phase = .idle ∧ s.breakOff.chain = s.chain) ∨
      (s.phase = .xfer ∧ s.breakOff.chain = { s.chain with sr := .unknown }) ∨
      (s.phase = .latHigh ∧ s.breakOff.chain =
        { s.chain with line := .unknown, out := drawnOut s.draws s.chain.sr s.chain.out }) ∨
      ((s.phase = .hold ∨ s.phase = .latLow) ∧ s.breakOff.chain =
        { s.chain with out := drawnOut s.draws s.chain.sr s.chain.out }) := by
  unfold State.breakOff
  cases hp : s.phase <;> simp

/-- The shift registers are unknown when a transfer is broken off, and left alone else. -/
theorem breakOff_sr (s : State) :
    s.breakOff.chain.sr = if s.phase = .xfer then .unknown else s.chain.sr := by
  rcases breakOff_chain_cases s with ⟨hp, e⟩ | ⟨hp, e⟩ | ⟨hp, e⟩ | ⟨hp | hp, e⟩ <;> simp [e, hp]

/-- Outside a pulse the outputs stay. -/
theorem breakOff_out_of_noPulse {s : State} (hp : s.phase = .idle ∨ s.phase = .xfer) :
    s.breakOff.chain.out = s.chain.out := by
  rcases breakOff_chain_cases s with ⟨_, e⟩ | ⟨_, e⟩ | ⟨hp', _⟩ | ⟨hp', _⟩
  · rw [e]
  · rw [e]
  · simp [hp'] at hp
  · rcases hp' with hp' | hp' <;> simp [hp'] at hp

/-- In any phase the outputs stay, or take what the shift registers hold (log 11). -/
theorem breakOff_out_cases (s : State) :
    s.breakOff.chain.out = s.chain.out ∨ s.breakOff.chain.out = s.chain.sr := by
  rcases breakOff_chain_cases s with ⟨_, e⟩ | ⟨_, e⟩ | ⟨_, e⟩ | ⟨_, e⟩ <;> rw [e]
  exacts [.inl rfl, .inl rfl, drawnOut_cases _ _ _, drawnOut_cases _ _ _]

/-- Only an unanswered `set_high` leaves the line open (log 11). -/
theorem breakOff_line {s : State} (hp : s.phase ≠ .latHigh) : s.breakOff.chain.line = s.chain.line := by
  rcases breakOff_chain_cases s with ⟨_, e⟩ | ⟨_, e⟩ | ⟨hp', _⟩ | ⟨_, e⟩
  · rw [e]
  · rw [e]
  · exact absurd hp' hp
  · rw [e]

/-- Settles O8: the block is constructed anew, and the chain is the one of `breakOff`, with the line driven low or
not. -/
theorem resetAbandonsTheCommandInProgress : Obligations.ResetAbandonsTheCommandInProgress := by
  intro s driven rest hc hs
  refine ⟨_, step_of_reset_anyPhase hc hs, State.doReset_cfg _ _, State.doReset_val _ _, rfl, rfl, rfl, rfl, rfl,
    State.doReset_script _ _, fun hp => ⟨?_, breakOff_out_of_noPulse (.inl hp)⟩,
    fun hp => ⟨?_, breakOff_out_of_noPulse (.inr hp)⟩, fun hp => ?_, breakOff_out_cases _, ?_, ?_⟩
  · exact (breakOff_sr _).trans (if_neg (by simp [hp]))
  · exact (breakOff_sr _).trans (if_pos hp)
  · exact (breakOff_sr _).trans (if_neg hp)
  · rintro rfl
    rfl
  · rintro rfl hp
    exact breakOff_line hp

/-! ## Another user of the bus (R120) -/

/-- Settles O16, by the step that takes this input. -/
theorem otherBusUseLeavesTheOutputs : Obligations.OtherBusUseLeavesTheOutputs :=
  fun _ _ hc hp hs => step_of_otherBusUse hc hp hs

/-! ## Runs (R125, R126) -/

/-- Where every state with a property has a next state with it, every run goes on and keeps it. -/
theorem core_run_keeps {P : State → Prop} (h : ∀ s, P s → ∃ t, step s = .next t ∧ P t) (k : Nat) {s : State}
    (hs : P s) : ∃ t, Sys2Proof.core.run k s = .next t ∧ P t := by
  induction k generalizing s with
  | zero => exact ⟨s, rfl, hs⟩
  | succ k ih =>
    obtain ⟨t, ht, hPt⟩ := h s hs
    rw [core_run_succ k ht]
    exact ih hPt

/-- An admitted configuration has a step, whatever the input is (R125). -/
theorem step_of_ok {s : State} (hc : s.cfg.ok = true) : ∃ t, step s = .next t := by
  by_cases hp : s.phase = .idle
  · rcases hs : s.script with _ | ⟨⟨w, as⟩ | b | _, rest⟩
    · exact ⟨_, step_of_noInput hc hp hs⟩
    · cases hd : decode w with
      | ok i => rw [step_of_legal hc hp hs hd]; exact exec_of_ok (s := s.accept w as rest) hc i
      | error e => exact ⟨_, step_of_illegal hc hp hs hd⟩
    · exact ⟨_, step_of_reset hc hp hs⟩
    · exact ⟨_, step_of_otherBusUse hc hp hs⟩
  · exact ⟨_, step_of_busy hc hp⟩

/-- No step changes the configuration (R20): this is a part of O50. -/
theorem step_cfg {s t : State} (h : step s = .next t) : t.cfg = s.cfg :=
  (onlyTheNamedCommandsWriteEachPart s t h).1

/-- Settles O15: the configuration stays admitted, and so every state of the run has a step. -/
theorem blockNeverHalts : Obligations.BlockNeverHalts := by
  intro s k hc
  refine core_run_keeps (P := fun t => t.cfg = s.cfg) (fun t ht => ?_) k rfl
  obtain ⟨u, hu⟩ := step_of_ok (ht ▸ hc)
  exact ⟨u, hu, (step_cfg hu).trans ht⟩

@[simp] theorem wait_lat (s : State) : s.wait.lat = s.lat := by
  rcases wait_cases s with h | ⟨_, h⟩ <;> simp [h]

theorem SameBlock.refl (s : State) : SameBlock s s := ⟨rfl, rfl, rfl, rfl, rfl, rfl, rfl, rfl⟩

/-- A WRITE waits for an answer that is not there, and no reset comes (R126). -/
structure Waiting (s : State) : Prop where
  admitted : s.cfg.ok = true
  busy : s.phase ≠ .idle
  notHold : s.phase ≠ .hold
  noAnswer : s.answers = []
  noReset : ∀ driven rest, s.script ≠ .reset driven :: rest

theorem Waiting.step {s : State} (h : Waiting s) : step s = .next s.wait := by
  rw [step_of_busy h.admitted h.busy, resume_of_waiting h.noReset h.noAnswer h.notHold]

/-- Whether a block waits is not decided by what it does not look at. -/
theorem Waiting.sameBlock {s t : State} (h : Waiting s) (hst : SameBlock s t) : Waiting t where
  admitted := hst.cfg ▸ h.admitted
  busy := hst.phase ▸ h.busy
  notHold := hst.phase ▸ h.notHold
  noAnswer := hst.answers ▸ h.noAnswer
  noReset := hst.script ▸ h.noReset

/-- Settles O12: a waiting step leads to the same block, which waits as before. -/
theorem unansweredWriteWaitsForEver : Obligations.UnansweredWriteWaitsForEver := by
  intro s k hc hp hh ha hs
  have hw : Waiting s := ⟨hc, hp, hh, ha, hs⟩
  obtain ⟨t, ht, same, hlat⟩ := core_run_keeps (P := fun t => SameBlock s t ∧ t.lat = s.lat)
    (fun t ⟨hst, hl⟩ => ⟨t.wait, (hw.sameBlock hst).step, hst.trans (sameBlock_wait t), (wait_lat t).trans hl⟩) k
    ⟨.refl s, rfl⟩
  have hbusy : t.busy = true := by simp [State.busy, ← same.phase, hp]
  exact ⟨t, ht, same.phase.symm, same.trace.symm, same.val.symm, same.life.symm, hlat, same.hold.symm,
    same.script.symm, hbusy⟩

/-! ## The end of a WRITE (R126) -/

/-- A WRITE is back in Idle exactly where its answers suffice: in four of its seven outcomes. -/
theorem writeBody_phase_idle_iff (s : State) : (writeBody s).phase = .idle ↔ answered s.answers = true := by
  rcases writeBody_cases s with ⟨ha, e⟩ | ⟨ha, e⟩ | ⟨ha, e⟩ | ⟨x, rest, ha, e⟩ | ⟨x, rest, ha, e⟩ | ⟨x, rest, ha, e⟩ |
    ⟨rest, ha, e⟩ <;> simp [e, ha, answered]

/-- Settles O26: a ready block runs WRITE's own pseudocode. -/
theorem writeEndsExactlyWhenAnswered : Obligations.WriteEndsExactlyWhenAnswered :=
  fun s hr => ⟨writeBody s, exec_of_ready hr .write, writeBody_phase_idle_iff s⟩

end Sys2Proof.Machine
end

section
/-! SUPPORT. A configuration outside its constraints (93_implementation_defined.md U15; log 7). -/

namespace Sys2Proof.Machine

theorem step_of_bad {s : State} (hc : s.cfg.ok = false) : step s = .refused .badConfiguration := by
  simp [step, hc]

/-- The prologue, which every command has, looks at the configuration first. -/
theorem exec_of_bad {s : State} (hc : s.cfg.ok = false) (i : Instr) : exec i s = .refused .badConfiguration := by
  rw [exec_eq_command, command_of_bad hc]

/-- Settles O11: the block's step and the commands' common prologue both look at the configuration first. -/
theorem badConfigurationIsRefused : Obligations.BadConfigurationIsRefused :=
  fun _ hc => ⟨step_of_bad hc, exec_of_bad hc⟩

end Sys2Proof.Machine
end
